-- ==== Sys2Proof/Word.lean ====
section
/-! DEFINITION. The word types of the machine: bytes, flag words and control words (R6, R12, R58). -/

namespace Sys2Proof

/-- A byte: the width of every register that goes on the bus, of an address and of a memory cell (R6). -/
abbrev Byte := BitVec 8

/-- The FLAGS register and the flags field of the microcode key are 5 bits wide (R12, R23). -/
abbrev FlagWord := BitVec 5

/-- A control word has 19 signals, bit `i` of it being signal `i` (R12, R58). -/
abbrev ControlWord := BitVec 19

end Sys2Proof
end

