-- ==== Sys2Proof/Config.lean ====
section
/-! DEFINITION. The implementation parameters that the spec says a model takes as arguments (R7, R8, R10, R11).
They are fixed for a run; a run's values stand in `State.cfg`. No value of this machine is left free, so
there is no opaque constant here. -/

namespace Sys2Proof

/-- UNDEFINED_OPCODE_MODE (R10): what the machine does with an opcode 0x13 to 0xFF. -/
inductive UndefinedOpcodeMode where
  /-- raise InvalidOpcode (R116), the default -/
  | fault
  /-- follow the all-zero ROM words literally (R117) -/
  | romLiteral
  deriving DecidableEq, Repr

/-- FLAGS_UPDATE_MODE (R11): when FLAGS is written. -/
inductive FlagsUpdateMode where
  /-- in every tick whose IR is an ALU opcode (R100), the reference value -/
  | everyAluCycle
  /-- in the tick that asserts ALU_OUT, from ALU_FLAGS (R101) -/
  | atWriteback
  deriving DecidableEq, Repr

/-- The parameters of a run. DESIGN CHOICE (log entry 1): they are data, so that every value the spec
allows is modelled. -/
structure Config where
  /-- N_STEPS (R7) -/
  nSteps : Nat
  /-- STACK_SIZE (R8) -/
  stackSize : Nat
  /-- UNDEFINED_OPCODE_MODE (R10) -/
  undefinedMode : UndefinedOpcodeMode
  /-- FLAGS_UPDATE_MODE (R11) -/
  flagsMode : FlagsUpdateMode
  deriving DecidableEq, Repr

/-- The reference values of R7, R8, R10 and R11. -/
def Config.reference : Config where
  nSteps := 8
  stackSize := 16
  undefinedMode := .fault
  flagsMode := .everyAluCycle

/-- STACK_OFFSET = 256 − STACK_SIZE, the lowest address of the stack region (R9). It is also the number of bytes
of the program region (R37, R133). -/
def Config.stackOffset (cfg : Config) : Nat := 256 - cfg.stackSize

end Sys2Proof
end

