-- ==== Sys2Proof/Syntax.lean ====
section
/-! DEFINITION. The instruction set: exactly the 19 opcodes of R2 and R51, in the table's order. -/

namespace Sys2Proof

/-- An instruction. The operand of the OP_ADDR format is an absolute 8-bit address, used as it stands (R50, R52);
the operands of every other instruction are implicit. -/
inductive Instr where
  /-- no-op (R85) -/
  | nop
  /-- halt (R86) -/
  | hlt
  /-- load A from the byte at `addr` (R87) -/
  | lda (addr : Byte)
  /-- load B from the byte at `addr` (R88) -/
  | ldb (addr : Byte)
  /-- jump (R90) -/
  | jmp (target : Byte)
  /-- A <- A + B (R102) -/
  | add
  /-- A <- A − B (R103) -/
  | sub
  /-- A <- A XOR B (R104) -/
  | xor
  /-- A <- A AND B (R105) -/
  | and
  /-- output A (R107) -/
  | out
  /-- jump if zero (R91) -/
  | jz (target : Byte)
  /-- jump if negative (R92) -/
  | jn (target : Byte)
  /-- jump if carry (R93) -/
  | jc (target : Byte)
  /-- push A (R108) -/
  | push
  /-- pop into A (R109) -/
  | pop
  /-- jump to subroutine (R110) -/
  | jsr (target : Byte)
  /-- return from subroutine (R111) -/
  | rts
  /-- copy A into B (R113) -/
  | movab
  /-- copy B into A (R114) -/
  | movba
  deriving DecidableEq, Repr

/-- The operand byte of the OP_ADDR format, none in the OP format (R50). -/
def Instr.operand? : Instr → Option Byte
  | .lda addr => some addr
  | .ldb addr => some addr
  | .jmp target => some target
  | .jz target => some target
  | .jn target => some target
  | .jc target => some target
  | .jsr target => some target
  | .nop => none
  | .hlt => none
  | .add => none
  | .sub => none
  | .xor => none
  | .and => none
  | .out => none
  | .push => none
  | .pop => none
  | .rts => none
  | .movab => none
  | .movba => none

end Sys2Proof
end

