-- ==== Sys2Proof/WellFormed.lean ====
section
/-! DEFINITION. What is well formed: the parameters of a run (R7, R8), an instruction (R54), and a program
image (R133). -/

namespace Sys2Proof

/-- The constraints on the parameters: N_STEPS ≥ 6 (R7) and 1 ≤ STACK_SIZE ≤ 255 (R8). -/
def Config.wellFormed (cfg : Config) : Bool :=
  decide (6 ≤ cfg.nSteps) && decide (1 ≤ cfg.stackSize) && decide (cfg.stackSize ≤ 255)

/-- An operand is a value in 0x00 to 0xFF, and every such value is legal for every OP_ADDR instruction (R54). The
type of the operand holds nothing else, so every term of `Instr` is well formed
(`Instr.wellFormed_always` in Laws/Encoding.lean). -/
def Instr.wellFormed (i : Instr) : Bool :=
  i.operand?.all fun operand => decide (operand.toNat ≤ 0xFF)

/-- The acceptance check on a program image: its length is exactly 256 − STACK_SIZE (R133). -/
def imageAccepted (cfg : Config) (image : List Byte) : Bool :=
  image.length == cfg.stackOffset

end Sys2Proof
end

