-- ==== Sys2Proof/Decode.lean ====
section
/-! DEFINITION. The decoder and the encoder, both written from the opcode map of R51 and the formats of R50. -/

namespace Sys2Proof

/-- Why bytes are not an instruction. -/
inductive DecodeError where
  /-- there is no opcode byte, or the opcode's operand byte is missing (R49) -/
  | truncated
  /-- the opcode is one of the 237 undefined values 0x13 to 0xFF (R54) -/
  | undefinedOpcode (opcode : Byte)
  deriving DecidableEq, Repr

/-- What an opcode byte selects: an instruction of format OP, one of format OP_ADDR that still wants its operand
byte, or nothing (R50, R51). -/
inductive OpcodeForm where
  | op (i : Instr)
  | opAddr (withOperand : Byte → Instr)
  | undefined

/-- The opcode map of R51. The whole byte is compared (R50). -/
def opcodeForm (opcode : Byte) : OpcodeForm :=
  match opcode.toNat with
  | 0x00 => .op .nop
  | 0x01 => .op .hlt
  | 0x02 => .opAddr .lda
  | 0x03 => .opAddr .ldb
  | 0x04 => .opAddr .jmp
  | 0x05 => .op .add
  | 0x06 => .op .sub
  | 0x07 => .op .xor
  | 0x08 => .op .and
  | 0x09 => .op .out
  | 0x0A => .opAddr .jz
  | 0x0B => .opAddr .jn
  | 0x0C => .opAddr .jc
  | 0x0D => .op .push
  | 0x0E => .op .pop
  | 0x0F => .opAddr .jsr
  | 0x10 => .op .rts
  | 0x11 => .op .movab
  | 0x12 => .op .movba
  | _ => .undefined

/-- Reads one instruction from the bytes at its address and gives the bytes after it (R49, R50, R53). -/
def decode : List Byte → Except DecodeError (Instr × List Byte)
  | [] => .error .truncated
  | opcode :: rest =>
    match opcodeForm opcode with
    | .op i => .ok (i, rest)
    | .opAddr withOperand =>
      match rest with
      | [] => .error .truncated
      | operand :: rest' => .ok (withOperand operand, rest')
    | .undefined => .error (.undefinedOpcode opcode)

/-- The `valid` output of the ROM address decoder: IR ≤ 0x12 (R62). -/
def validOpcode (opcode : Byte) : Bool := decide (opcode.toNat ≤ 0x12)

/-- The opcode byte of an instruction (R51). -/
def Instr.opcode : Instr → Byte
  | .nop => 0x00
  | .hlt => 0x01
  | .lda _ => 0x02
  | .ldb _ => 0x03
  | .jmp _ => 0x04
  | .add => 0x05
  | .sub => 0x06
  | .xor => 0x07
  | .and => 0x08
  | .out => 0x09
  | .jz _ => 0x0A
  | .jn _ => 0x0B
  | .jc _ => 0x0C
  | .push => 0x0D
  | .pop => 0x0E
  | .jsr _ => 0x0F
  | .rts => 0x10
  | .movab => 0x11
  | .movba => 0x12

/-- The bytes of an instruction: the opcode byte, then the operand byte if the format has one (R49, R50). -/
def encode (i : Instr) : List Byte := i.opcode :: i.operand?.toList

/-- The length of an instruction, told from its opcode byte alone: 2 bytes for 0x02, 0x03, 0x04, 0x0A, 0x0B, 0x0C and
0x0F, 1 byte for the other defined opcodes, none for an undefined one (R53). -/
def opcodeLength? (opcode : Byte) : Option Nat :=
  match opcodeForm opcode with
  | .op _ => some 1
  | .opAddr _ => some 2
  | .undefined => none

/-- The bytes of an instruction whose table bits are `w`: the lower byte is the opcode byte, at the lower
address, and every bit above `nbits` is 0. Two bytes are the longest instruction (R50). -/
def tableBytes (nbits w : Nat) : List Byte :=
  let bits := w % 2 ^ nbits
  [BitVec.ofNat 8 bits, BitVec.ofNat 8 (bits / 256)]

/-- The instruction the decoder reads from an instruction whose bits are `w`, bit 0 being the least significant bit
of the opcode byte. -/
def decodeTableWord (nbits w : Nat) : Option Instr :=
  match decode (tableBytes nbits w) with
  | .ok (i, _) => some i
  | .error _ => none

end Sys2Proof
end

