-- ==== Sys2Proof/Machine/Control.lean ====
section
/-! DEFINITION. The 19 control signals and the control word (R57 to R59). -/

namespace Sys2Proof.Machine

/-- The control signals, in the order of their bits (R57). -/
inductive Signal where
  | pcOut | pcIn | pcInc | marIn | memOut | mbrIn | memWe | irIn | aIn | aOut | bIn | bOut | aluOut | spOut
  | spInc | spDec | out | stepRst | hlt
  deriving DecidableEq, Repr

/-- The bit of a signal in the control word (R57). -/
def Signal.bit : Signal → Nat
  | .pcOut => 0
  | .pcIn => 1
  | .pcInc => 2
  | .marIn => 3
  | .memOut => 4
  | .mbrIn => 5
  | .memWe => 6
  | .irIn => 7
  | .aIn => 8
  | .aOut => 9
  | .bIn => 10
  | .bOut => 11
  | .aluOut => 12
  | .spOut => 13
  | .spInc => 14
  | .spDec => 15
  | .out => 16
  | .stepRst => 17
  | .hlt => 18

/-- Whether a word asserts a signal: bit i is 1 exactly when signal i is asserted (R58). -/
def asserts (word : ControlWord) (signal : Signal) : Bool := word.getLsbD signal.bit

/-- The word that asserts exactly the listed signals (R58). -/
def wordOf : List Signal → ControlWord
  | [] => 0
  | signal :: rest => BitVec.twoPow 19 signal.bit ||| wordOf rest

/-- The three classes of signals (R59). -/
inductive SignalClass where
  | driver | receiver | utility
  deriving DecidableEq, Repr

/-- The class of a signal (R57, R59). -/
def Signal.cls : Signal → SignalClass
  | .pcOut => .driver
  | .pcIn => .receiver
  | .pcInc => .utility
  | .marIn => .receiver
  | .memOut => .driver
  | .mbrIn => .receiver
  | .memWe => .utility
  | .irIn => .receiver
  | .aIn => .receiver
  | .aOut => .driver
  | .bIn => .receiver
  | .bOut => .driver
  | .aluOut => .driver
  | .spOut => .driver
  | .spInc => .utility
  | .spDec => .utility
  | .out => .utility
  | .stepRst => .utility
  | .hlt => .utility

/-- Every signal, in the order of the bits (R57). -/
def allSignals : List Signal :=
  [.pcOut, .pcIn, .pcInc, .marIn, .memOut, .mbrIn, .memWe, .irIn, .aIn, .aOut, .bIn, .bOut, .aluOut, .spOut, .spInc,
    .spDec, .out, .stepRst, .hlt]

/-- The signals of one class (R59). -/
def signalsOf (cls : SignalClass) : List Signal := allSignals.filter fun signal => signal.cls == cls

/-- The drivers a word asserts, the set D of phase 2 (R70). -/
def assertedDrivers (word : ControlWord) : List Signal := (signalsOf .driver).filter fun signal => asserts word signal

/-- The receivers a word asserts (R75). -/
def assertedReceivers (word : ControlWord) : List Signal :=
  (signalsOf .receiver).filter fun signal => asserts word signal

end Sys2Proof.Machine
end

