-- ==== Sys2Proof/Machine/Rom.lean ====
section
/-! DEFINITION. The contents of the control-word ROM (R64 to R66) and the ROM address decoder (R61). -/

namespace Sys2Proof.Machine

/-! Flag bits of the key (R25). -/

/-- C, bit 0. -/
def flagC (flags : FlagWord) : Bool := flags.getLsbD 0
/-- Z, bit 1. -/
def flagZ (flags : FlagWord) : Bool := flags.getLsbD 1
/-- N, bit 2. -/
def flagN (flags : FlagWord) : Bool := flags.getLsbD 2
/-- P, bit 3. -/
def flagP (flags : FlagWord) : Bool := flags.getLsbD 3
/-- The reserved bit 4. -/
def flagReserved (flags : FlagWord) : Bool := flags.getLsbD 4

/-! The words of R64 and R66, each written as the signals the rule names. -/

/-- PC_OUT | MAR_IN: fetch step 0, and the first step of an operand read. -/
def wordPcToMar : ControlWord := wordOf [.pcOut, .marIn]
/-- MEM_OUT | IR_IN | PC_INC: fetch step 1. -/
def wordFetchOpcode : ControlWord := wordOf [.memOut, .irIn, .pcInc]
/-- STEP_RST: NOP. -/
def wordNop : ControlWord := wordOf [.stepRst]
/-- HLT | STEP_RST. -/
def wordHalt : ControlWord := wordOf [.hlt, .stepRst]
/-- MEM_OUT | MAR_IN | PC_INC: the operand byte becomes the address of the load. -/
def wordOperandToMar : ControlWord := wordOf [.memOut, .marIn, .pcInc]
/-- MEM_OUT | A_IN | STEP_RST. -/
def wordMemToA : ControlWord := wordOf [.memOut, .aIn, .stepRst]
/-- MEM_OUT | B_IN | STEP_RST. -/
def wordMemToB : ControlWord := wordOf [.memOut, .bIn, .stepRst]
/-- MEM_OUT | PC_IN | STEP_RST. -/
def wordMemToPc : ControlWord := wordOf [.memOut, .pcIn, .stepRst]
/-- ALU_OUT | A_IN | STEP_RST. -/
def wordAluToA : ControlWord := wordOf [.aluOut, .aIn, .stepRst]
/-- OUT | STEP_RST. -/
def wordOut : ControlWord := wordOf [.out, .stepRst]
/-- PC_INC | STEP_RST: skip the operand of a jump that is not taken. -/
def wordSkipOperand : ControlWord := wordOf [.pcInc, .stepRst]
/-- SP_OUT | MAR_IN. -/
def wordSpToMar : ControlWord := wordOf [.spOut, .marIn]
/-- A_OUT | MBR_IN | MEM_WE | SP_INC | STEP_RST: the write of PUSH. -/
def wordPushA : ControlWord := wordOf [.aOut, .mbrIn, .memWe, .spInc, .stepRst]
/-- PC_OUT | MBR_IN | MEM_WE | SP_INC: the write of JSR. -/
def wordPushPc : ControlWord := wordOf [.pcOut, .mbrIn, .memWe, .spInc]
/-- SP_DEC. -/
def wordSpDec : ControlWord := wordOf [.spDec]
/-- MEM_OUT | PC_IN | PC_INC | STEP_RST: the return of RTS. -/
def wordReturn : ControlWord := wordOf [.memOut, .pcIn, .pcInc, .stepRst]
/-- A_OUT | B_IN | STEP_RST. -/
def wordAToB : ControlWord := wordOf [.aOut, .bIn, .stepRst]
/-- B_OUT | A_IN | STEP_RST. -/
def wordBToA : ControlWord := wordOf [.bOut, .aIn, .stepRst]

/-- The jump path of JMP and of a taken conditional jump (R66). -/
def jumpWords : List ControlWord := [wordPcToMar, wordMemToPc]

/-- The words of a conditional jump, chosen by the tested bit of the key's flags (R66, R89). -/
def conditionalJumpWords (tested : Bool) : List ControlWord := if tested then jumpWords else [wordSkipOperand]

/-- The execute words of an opcode, from step 2 to its final used step (R65, R66). -/
def executeWords (opcode : Byte) (flags : FlagWord) : List ControlWord :=
  match opcode.toNat with
  | 0x00 => [wordNop]
  | 0x01 => [wordHalt]
  | 0x02 => [wordPcToMar, wordOperandToMar, wordMemToA]
  | 0x03 => [wordPcToMar, wordOperandToMar, wordMemToB]
  | 0x04 => jumpWords
  | 0x05 => [wordAluToA]
  | 0x06 => [wordAluToA]
  | 0x07 => [wordAluToA]
  | 0x08 => [wordAluToA]
  | 0x09 => [wordOut]
  | 0x0A => conditionalJumpWords (flagZ flags)
  | 0x0B => conditionalJumpWords (flagN flags)
  | 0x0C => conditionalJumpWords (flagC flags)
  | 0x0D => [wordSpToMar, wordPushA]
  | 0x0E => [wordSpDec, wordSpToMar, wordMemToA]
  | 0x0F => [wordSpToMar, wordPushPc, wordPcToMar, wordMemToPc]
  | 0x10 => [wordSpDec, wordSpToMar, wordReturn]
  | 0x11 => [wordAToB]
  | 0x12 => [wordBToA]
  | _ => []

/-- The ROM (R60): the fetch words at steps 0 and 1 for every opcode and every flags value (R64), the execute words from
step 2 on, and the all-zero word after the final used step and for undefined opcodes (R65). -/
def rom (opcode : Byte) (step : Nat) (flags : FlagWord) : ControlWord :=
  match step with
  | 0 => wordPcToMar
  | 1 => wordFetchOpcode
  | k + 2 => (executeWords opcode flags).getD k 0

/-- SW = ceil(log2 N_STEPS), the width of the step field of the ROM address (R61): the least w with N_STEPS ≤ 2^w, which
stands among 0, …, N_STEPS. -/
def stepFieldWidth (cfg : Config) : Nat :=
  ((List.range (cfg.nSteps + 1)).find? fun w => decide (cfg.nSteps ≤ 2 ^ w)).getD cfg.nSteps

/-- The ROM address of a key: IR · 2^(SW+5) + STEP · 32 + FLAGS (R61). -/
def romAddr (cfg : Config) (opcode : Byte) (step : Nat) (flags : FlagWord) : Nat :=
  opcode.toNat * 2 ^ (stepFieldWidth cfg + 5) + step * 32 + flags.toNat

/-- The ROM as a physical table, indexed by address. An address whose step field is N_STEPS or more is never formed
and holds 0x00000 (R61). -/
def romTable (cfg : Config) (addr : Nat) : ControlWord :=
  let step := addr / 32 % 2 ^ stepFieldWidth cfg
  if step < cfg.nSteps then
    rom (BitVec.ofNat 8 (addr / 2 ^ (stepFieldWidth cfg + 5))) step (BitVec.ofNat 5 addr)
  else 0

end Sys2Proof.Machine
end

