-- ==== Sys2Proof/Machine/Flags.lean ====
section
/-! DEFINITION. The ALU function and its flags (R94 to R99). -/

namespace Sys2Proof.Machine

/-- The four ALU opcodes (R94). -/
inductive AluOp where
  | add | sub | xor | and
  deriving DecidableEq, Repr

/-- The opcode byte of an ALU opcode (R51, R94). -/
def AluOp.opcode : AluOp → Byte
  | .add => 0x05
  | .sub => 0x06
  | .xor => 0x07
  | .and => 0x08

/-- What the ALU phase sees in IR: an ALU opcode, or none (R82, R94). -/
def aluOpOf (ir : Byte) : Option AluOp :=
  match ir.toNat with
  | 0x05 => some .add
  | 0x06 => some .sub
  | 0x07 => some .xor
  | 0x08 => some .and
  | _ => none

/-- The result r of AluFn (R94): 8 bits, wrapping. -/
def aluResult (op : AluOp) (a b : Byte) : Byte :=
  match op with
  | .add => a + b
  | .sub => a - b
  | .xor => a ^^^ b
  | .and => a &&& b

/-- fl.C (R95): the carry out of bit 7 for ADD, the borrow for SUB, 0 for XOR and AND. That SUB's carry is the borrow
is the spec's decision D16 (PRESUMED, log entry 7). -/
def aluCarry (op : AluOp) (a b : Byte) : Bool :=
  match op with
  | .add => decide (256 ≤ a.toNat + b.toNat)
  | .sub => decide (a.toNat < b.toNat)
  | .xor => false
  | .and => false

/-- fl.Z (R96): the 8-bit result is 0x00. -/
def zeroFlag (r : Byte) : Bool := r == 0x00

/-- fl.N (R97): bit 7 of the result. -/
def negativeFlag (r : Byte) : Bool := r.getLsbD 7

/-- How many bits of a byte are 1. -/
def onesCount (r : Byte) : Nat := (List.range 8).countP fun i => r.getLsbD i

/-- fl.P (R98): the result has an even number of 1 bits. The sense is the spec's decision D19 (PRESUMED, log entry
7). -/
def parityFlag (r : Byte) : Bool := onesCount r % 2 == 0

/-- A flag word from its four flags, bit 4 being 0 (R25, R94, R99). -/
def packFlags (c z n p : Bool) : FlagWord :=
  BitVec.ofBool false ++ BitVec.ofBool p ++ BitVec.ofBool n ++ BitVec.ofBool z ++ BitVec.ofBool c

/-- The flag word fl of AluFn (R94 to R99). -/
def aluFlagWord (op : AluOp) (a b : Byte) : FlagWord :=
  packFlags (aluCarry op a b) (zeroFlag (aluResult op a b)) (negativeFlag (aluResult op a b))
    (parityFlag (aluResult op a b))

end Sys2Proof.Machine
end

