-- ==== Sys2Proof/Machine/State.lean ====
section
/-! DEFINITION. The machine's state (R13, R27, R30, R34), the reasons it stops, and its reset value (R32). -/

namespace Sys2Proof.Machine

/-- Memory as (address, byte) pairs in one canonical form: addresses below 256 strictly rising, no entry equal to what
an unlisted address reads as (`Memory.unlisted`). The 256 bytes of R34 are what `Memory.read` reads. -/
abbrev Memory := List Host.Cell

/-- The faults of R115. A tick raises one by recording it in `State.fault` and changing nothing else; `tick` and
`step` of
a machine that holds a record answer it, because a faulted machine has no tick (R84). Safe: the spec says the
machine stops there. -/
inductive Fault where
  /-- code 1: raised in phase 0 of a tick with STEP ≥ 2 and an undefined opcode in IR, in fault mode (R116). It
  records IR and PC as at the start of the tick. Safe: it is the stop the spec describes. -/
  | invalidOpcode (opcode pc : Byte)
  /-- code 2: raised in phase 2 of a tick whose control word asserts two or more drivers (R118). It records the word.
  Safe:
  it is the stop the spec describes, and no word of the spec's ROM raises it. -/
  | busContention (word : ControlWord)
  deriving DecidableEq, Repr

/-- Why a step has no next state although no fault is recorded. -/
inductive Refusal where
  /-- raised by an arm of `exec` for an instruction that has no meaning yet; no arm does. Safe: nothing runs. -/
  | notModelled (mnemonic : String)
  /-- raised by `tick` and `step` of a machine with HALTED = true: the run has ended and no tick is defined (R69, R84,
  R130). Safe: the spec gives no tick there. -/
  | halted
  deriving DecidableEq, Repr

/-- The whole state: CPU state (R13), the hidden ALU_FLAGS (R27), the engine fields (R30), memory (R34) and the run's
parameters (log entry 1). -/
structure State where
  /-- the run's parameters (R7, R8, R10, R11); no tick changes them -/
  cfg : Config
  /-- register A (R14) -/
  a : Byte
  /-- register B (R15) -/
  b : Byte
  /-- program counter (R17) -/
  pc : Byte
  /-- memory-address register (R19) -/
  mar : Byte
  /-- memory-buffer register (R20) -/
  mbr : Byte
  /-- instruction register (R21) -/
  ir : Byte
  /-- step counter STEP, 0 to N_STEPS − 1 (R22) -/
  stepCtr : Nat
  /-- FLAGS = 0 P N Z C, bit 4 down to bit 0 (R23, R25) -/
  flags : FlagWord
  /-- ALU_FLAGS, written and read only in at_writeback mode (R27, log entry 6) -/
  aluFlags : FlagWord
  /-- ALU output latch (R26) -/
  alu : Byte
  /-- stack pointer SP, 0 to STACK_SIZE − 1 (R28) -/
  sp : Nat
  /-- HALTED (R30, R80) -/
  halted : Bool
  /-- FAULT (R30, R115) -/
  fault : Option Fault
  /-- OUTPUT, the bytes emitted so far, in order (R30, R79) -/
  output : List Byte
  /-- MEM (R34) -/
  mem : Memory
  deriving DecidableEq, Repr

/-- The state after reset, under given parameters and with given memory (R32). -/
def State.resetWith (cfg : Config) (mem : Memory) : State where
  cfg := cfg
  a := 0x00
  b := 0x00
  pc := 0x00
  mar := 0x00
  mbr := 0x00
  ir := 0x00
  stepCtr := 0
  flags := 0b00000
  aluFlags := 0b00000
  alu := 0x00
  sp := 0
  halted := false
  fault := none
  output := []
  mem := mem

/-- The machine right after reset (R32) with the reference parameters (DESIGN CHOICE, log entry 1) and no image
byte other than 0x00 (DESIGN CHOICE, log entry 4). -/
def State.reset : State := State.resetWith Config.reference []

end Sys2Proof.Machine
end

