-- ==== Sys2Proof/Machine/Ops.lean ====
section
/-! DEFINITION. The named operations over registers and memory, fetching an instruction's bytes, and raising a fault. -/

namespace Sys2Proof.Machine

/-! Register writes: one for each field a tick can write. -/

/-- Writes register A (R14). -/
def State.setA (s : State) (v : Byte) : State := { s with a := v }

/-- Writes register B (R15). -/
def State.setB (s : State) (v : Byte) : State := { s with b := v }

/-- Writes the program counter (R17). -/
def State.setPc (s : State) (v : Byte) : State := { s with pc := v }

/-- Writes the memory-address register (R19). -/
def State.setMar (s : State) (v : Byte) : State := { s with mar := v }

/-- Writes the memory-buffer register (R20). -/
def State.setMbr (s : State) (v : Byte) : State := { s with mbr := v }

/-- Writes the instruction register (R21). -/
def State.setIr (s : State) (v : Byte) : State := { s with ir := v }

/-- Writes the step counter (R22). -/
def State.setStepCtr (s : State) (v : Nat) : State := { s with stepCtr := v }

/-- Writes FLAGS, all five bits (R23). -/
def State.setFlags (s : State) (v : FlagWord) : State := { s with flags := v }

/-- Writes the hidden ALU_FLAGS (R27). -/
def State.setAluFlags (s : State) (v : FlagWord) : State := { s with aluFlags := v }

/-- Writes the ALU output latch (R26). -/
def State.setAlu (s : State) (v : Byte) : State := { s with alu := v }

/-- Writes the stack pointer (R28). -/
def State.setSp (s : State) (v : Nat) : State := { s with sp := v }

/-- Writes HALTED (R30). -/
def State.setHalted (s : State) (v : Bool) : State := { s with halted := v }

/-- Writes FAULT (R30). -/
def State.setFault (s : State) (v : Option Fault) : State := { s with fault := v }

/-- Writes OUTPUT (R30). -/
def State.setOutput (s : State) (v : List Byte) : State := { s with output := v }

/-- Writes the memory (R34). -/
def State.setMem (s : State) (v : Memory) : State := { s with mem := v }

/-! Memory (R34, R39, R40). -/

/-- What an address reads as that no entry lists. The stack region is 0x00 at reset (R132), and `boot` lists every image
byte that is not 0x00 (DESIGN CHOICE, log entry 4). -/
def Memory.unlisted : Byte := 0x00

/-- The byte at an address: the first entry for it, else `Memory.unlisted`. -/
def Memory.readAt : Memory → Nat → Byte
  | [], _ => Memory.unlisted
  | (key, value) :: rest, addr => if key = addr then value else Memory.readAt rest addr

/-- The memory without any entry for an address. -/
def Memory.erase (m : Memory) (addr : Nat) : Memory := m.filter fun cell => cell.1 != addr

/-- The memory with one entry more, in front of the first entry of a higher address. -/
def Memory.insert : Memory → Nat → Byte → Memory
  | [], addr, value => [(addr, value)]
  | (key, old) :: rest, addr, value =>
    if addr < key then (addr, value) :: (key, old) :: rest else (key, old) :: Memory.insert rest addr value

/-- The memory after a byte is stored. Storing what an unlisted address reads as removes the entry. -/
def Memory.writeAt (m : Memory) (addr : Nat) (value : Byte) : Memory :=
  if value = Memory.unlisted then m.erase addr else (m.erase addr).insert addr value

/-- MemRead(addr, 1) (R39): an 8-bit address is always in range (R36). -/
def Memory.read (m : Memory) (addr : Byte) : Byte := m.readAt addr.toNat

/-- MemWrite(addr, 1, value) (R39). -/
def Memory.write (m : Memory) (addr value : Byte) : Memory := m.writeAt addr.toNat value

/-- The canonical form from address `low` on: addresses rising strictly from `low`, below 256, and no entry equal to
`Memory.unlisted`. -/
def Memory.wfFrom : Nat → Memory → Bool
  | _, [] => true
  | low, (key, value) :: rest =>
    decide (low ≤ key) && decide (key < 256) && decide (value ≠ Memory.unlisted) && Memory.wfFrom (key + 1) rest

/-- The canonical form of memory: equal memories are equal data. -/
def Memory.wf (m : Memory) : Bool := Memory.wfFrom 0 m

/-- Stores bytes at consecutive addresses from `addr` on. -/
def Memory.writeList : Memory → Nat → List Byte → Memory
  | m, _, [] => m
  | m, addr, value :: rest => Memory.writeList (m.writeAt addr value) (addr + 1) rest

/-! Fetching. -/

/-- The bytes at the program counter, as many as the longest instruction has: the opcode at PC and what would be its
operand at (PC + 1) mod 256 (R49). -/
def fetchBytes (s : State) : List Byte := [s.mem.read s.pc, s.mem.read (s.pc + 1)]

/-! Faults. There is no trap entry beyond this record and no return from it (R122, R123). -/

/-- Raising a fault: FAULT is set to the record and every other field stays as it stood at the start of the
tick (R115). -/
def raiseFault (record : Fault) (s : State) : State := s.setFault (some record)

/-- The code of a FAULT value (R115). -/
def faultCode : Option Fault → Nat
  | none => 0
  | some (.invalidOpcode _ _) => 1
  | some (.busContention _) => 2

end Sys2Proof.Machine
end

