-- ==== Sys2Proof/Machine/Operands.lean ====
section
/-! DEFINITION. The operand forms: the absolute address (R52), the stack slot (R38), and the implicit A and B, which the
meanings name. -/

namespace Sys2Proof.Machine

/-- The address of the operand byte of the instruction at PC: (p + 1) mod 256 (R49). -/
def operandAddr (s : State) : Byte := s.pc + 1

/-- The byte that an absolute operand names (R52, R87). -/
def absoluteByte (s : State) (addr : Byte) : Byte := s.mem.read addr

/-- StackAddr(slot) = STACK_OFFSET + slot (R38). -/
def stackAddr (cfg : Config) (slot : Nat) : Byte := BitVec.ofNat 8 (cfg.stackOffset + slot)

/-- SP after SP_INC: (SP + 1) mod STACK_SIZE (R28, R78). -/
def spIncremented (cfg : Config) (sp : Nat) : Nat := (sp + 1) % cfg.stackSize

/-- SP after SP_DEC: (SP − 1) mod STACK_SIZE, the non-negative remainder (R28, R78). -/
def spDecremented (cfg : Config) (sp : Nat) : Nat := (sp + cfg.stackSize - 1) % cfg.stackSize

/-- The address a push stores to: the slot of the SP before it (R108). -/
def pushAddr (s : State) : Byte := stackAddr s.cfg s.sp

/-- The address a pop reads: the slot of the decremented SP (R109). -/
def popAddr (s : State) : Byte := stackAddr s.cfg (spDecremented s.cfg s.sp)

end Sys2Proof.Machine
end

