-- ==== Sys2Proof/Machine/Tick.lean ====
section
/-! DEFINITION. One clock tick: phases 0 to 6 of R70, over the control word the ROM returns. -/

namespace Sys2Proof.Machine

/-! Phase 2, bus-out (R73, R74). -/

/-- The value a driver puts on the bus, read at the start of the tick (R74). A signal that is no driver puts nothing
there; `busValue` asks for drivers only. -/
def driveValue (signal : Signal) (s : State) : Byte :=
  match signal with
  | .pcOut => s.pc
  | .memOut => s.mbr
  | .aOut => s.a
  | .bOut => s.b
  | .aluOut => s.alu
  | .spOut => stackAddr s.cfg s.sp
  | .pcIn => 0x00
  | .pcInc => 0x00
  | .marIn => 0x00
  | .mbrIn => 0x00
  | .memWe => 0x00
  | .irIn => 0x00
  | .aIn => 0x00
  | .bIn => 0x00
  | .spInc => 0x00
  | .spDec => 0x00
  | .out => 0x00
  | .stepRst => 0x00
  | .hlt => 0x00

/-- The bus value of a word with at most one driver: that driver's value, 0x00 with none (R73; UNVERIFIED, the
spec's own decision, log entry 8). -/
def busValue (drivers : List Signal) (s : State) : Byte :=
  match drivers with
  | [] => 0x00
  | driver :: _ => driveValue driver s

/-! Phase 3, bus-in (R75). -/

/-- Each asserted receiver loads the bus value; in at_writeback mode a tick with ALU_OUT also copies ALU_FLAGS into
FLAGS (R75, R101). -/
def busIn (word : ControlWord) (bus : Byte) (s : State) : State :=
  { s with
    pc := if asserts word .pcIn then bus else s.pc
    mar := if asserts word .marIn then bus else s.mar
    mbr := if asserts word .mbrIn then bus else s.mbr
    ir := if asserts word .irIn then bus else s.ir
    a := if asserts word .aIn then bus else s.a
    b := if asserts word .bIn then bus else s.b
    flags := if asserts word .aluOut ∧ s.cfg.flagsMode = .atWriteback then s.aluFlags else s.flags }

/-! Phase 4, sequencing utilities (R76 to R80), in the order of R70. -/

/-- STEP after its advance and a possible reset (R76). -/
def nextStep (word : ControlWord) (cfg : Config) (step : Nat) : Nat :=
  if asserts word .stepRst then 0 else (step + 1) % cfg.nSteps

/-- SP after SP_INC and then SP_DEC, each if asserted (R78). -/
def nextSp (word : ControlWord) (cfg : Config) (sp : Nat) : Nat :=
  let sp := if asserts word .spInc then spIncremented cfg sp else sp
  if asserts word .spDec then spDecremented cfg sp else sp

/-- The sequencing utilities (R76 to R80). -/
def utilities (word : ControlWord) (s : State) : State :=
  { s with
    pc := if asserts word .pcInc then s.pc + 1 else s.pc
    sp := nextSp word s.cfg s.sp
    stepCtr := nextStep word s.cfg s.stepCtr
    output := if asserts word .out then s.output ++ [s.a] else s.output
    halted := asserts word .hlt || s.halted }

/-! Phase 5, memory (R39, R81). -/

/-- The one access of the tick: a write of MBR with MEM_WE, else a refresh of MBR (R39). -/
def memoryPhase (word : ControlWord) (s : State) : State :=
  { s with
    mem := if asserts word .memWe then s.mem.write s.mar s.mbr else s.mem
    mbr := if asserts word .memWe then s.mbr else s.mem.read s.mar }

/-! Phase 6, ALU (R82, R94, R100, R101). -/

/-- The ALU phase: it runs in every tick on whatever opcode is in IR, and writes nothing when that is no ALU
opcode (R82). -/
def aluPhase (s : State) : State :=
  match aluOpOf s.ir with
  | none => s
  | some op =>
    match s.cfg.flagsMode with
    | .everyAluCycle => (s.setAlu (aluResult op s.a s.b)).setFlags (aluFlagWord op s.a s.b)
    | .atWriteback => (s.setAlu (aluResult op s.a s.b)).setAluFlags (aluFlagWord op s.a s.b)

/-! The tick. -/

/-- Phases 3 to 6 with a given bus value (R70). -/
def afterBusOut (word : ControlWord) (bus : Byte) (s : State) : State :=
  aluPhase (memoryPhase word (utilities word (busIn word bus s)))

/-- Phases 2 to 6 under a given control word: BusContention when two or more drivers are asserted (R73, R118), else the
transfers (R70). It is total on every word, those of the spec's ROM or not. -/
def tickWord (word : ControlWord) (s : State) : State :=
  if 2 ≤ (assertedDrivers word).length then raiseFault (.busContention word) s
  else afterBusOut word (busValue (assertedDrivers word) s) s

/-- Whether phase 0 raises InvalidOpcode: fault mode, STEP ≥ 2, and an undefined opcode in IR (R70, R72, R116). -/
def invalidOpcodeCheck (s : State) : Bool :=
  decide (s.cfg.undefinedMode = .fault) && decide (2 ≤ s.stepCtr) && !validOpcode s.ir

/-- One tick of a machine that is neither halted nor faulted (R70). -/
def runningTick (s : State) : State :=
  if invalidOpcodeCheck s then raiseFault (.invalidOpcode s.ir s.pc) s
  else tickWord (rom s.ir s.stepCtr s.flags) s

/-- One tick (R69). A faulted machine answers its fault and a halted one is refused, because neither has a tick
(R84). -/
def tick (s : State) : Host.Outcome State Fault Refusal :=
  match s.fault with
  | some record => .fault record
  | none => if s.halted then .refused .halted else .next (runningTick s)

/-- `n` ticks, stopping where there is no tick. -/
def ticks : Nat → State → Host.Outcome State Fault Refusal
  | 0, s => .next s
  | n + 1, s =>
    match tick s with
    | .next t => ticks n t
    | .fault record => .fault record
    | .refused reason => .refused reason

/-- Whether a tick has ended an instruction or the run: STEP is 0 again, or the machine has halted or faulted. -/
def instructionEnded (s : State) : Bool := decide (s.stepCtr = 0) || s.halted || s.fault.isSome

/-- Ticks, at least one, until the instruction in progress ends; the bound is never reached with N_STEPS or more, since
STEP wraps to 0 (R76). -/
def ticksToEnd : Nat → State → Host.Outcome State Fault Refusal
  | 0, s => .next s
  | bound + 1, s =>
    match tick s with
    | .next t => if instructionEnded t then .next t else ticksToEnd bound t
    | .fault record => .fault record
    | .refused reason => .refused reason

end Sys2Proof.Machine
end

