-- ==== Sys2Proof/Machine/Fetch.lean ====
section
/-! DEFINITION. What the fetch of an instruction does as a whole, and what an undefined opcode does. Every meaning
starts from `fetchInstr`. -/

namespace Sys2Proof.Machine

/-- Fetch steps 0 and 1 of the instruction at p = PC, whose opcode byte is `opcode` (R64): MAR <- p, MBR <- MEM[p],
IR <- MEM[p], PC <- p + 1. In step 0 the ALU phase still sees the previous opcode in IR (R100); in a state
whose ALU phase has settled it writes what is there already (R106). What the ALU phase of step 1 does for an ALU
opcode is in `aluInstr`. STEP is set by the meaning. -/
def fetchInstr (opcode : Byte) (s : State) : State :=
  ((((aluPhase s).setMar s.pc).setMbr opcode).setIr opcode).setPc (s.pc + 1)

/-- STEP_RST at the final used step: the next tick fetches (R76). -/
def endInstr (s : State) : State := s.setStepCtr 0

/-- An undefined opcode at PC (R54). In fault mode its fetch completes and the third tick raises InvalidOpcode
with the state precise (R116); in rom_literal mode it is a one-byte no-op of N_STEPS ticks (R117). -/
def undefinedOpcode (s : State) : State :=
  let opcode := s.mem.read s.pc
  match s.cfg.undefinedMode with
  | .fault => raiseFault (.invalidOpcode opcode (s.pc + 1)) ((fetchInstr opcode s).setStepCtr 2)
  | .romLiteral => endInstr (fetchInstr opcode s)

end Sys2Proof.Machine
end

