-- ==== Sys2Proof/Machine/Alu.lean ====
section
/-! DEFINITION. The ALU instructions (45_alu.md). -/

namespace Sys2Proof.Machine

/-- FLAGS and ALU_FLAGS after an ALU instruction: `written` are the flags of the result written to A, `again` those
of the
operation applied once more (the two columns of R106). -/
def aluInstrFlags (written again : FlagWord) (s : State) : State :=
  match s.cfg.flagsMode with
  | .everyAluCycle => s.setFlags again
  | .atWriteback => (s.setFlags written).setAluFlags again

/-- An ALU instruction X as R106 gives it: A <- A1 = X(A0, B); the latch holds X(A1, B), because the ALU phase of
step 2 computes again with the new A; the flags are those of the two columns of R106. -/
def aluInstr (op : AluOp) (s : State) : State :=
  let a0 := s.a
  let a1 := aluResult op a0 s.b
  endInstr (aluInstrFlags (aluFlagWord op a0 s.b) (aluFlagWord op a1 s.b)
    (((fetchInstr op.opcode s).setA a1).setAlu (aluResult op a1 s.b)))

/-- ADD (R102): A <- A + B mod 256. -/
def execAdd (s : State) : Host.Outcome State Fault Refusal := .next (aluInstr .add s)

/-- SUB (R103): A <- A − B mod 256. -/
def execSub (s : State) : Host.Outcome State Fault Refusal := .next (aluInstr .sub s)

/-- XOR (R104): A <- A XOR B. -/
def execXor (s : State) : Host.Outcome State Fault Refusal := .next (aluInstr .xor s)

/-- AND (R105): A <- A AND B. -/
def execAnd (s : State) : Host.Outcome State Fault Refusal := .next (aluInstr .and s)

end Sys2Proof.Machine
end

