-- ==== Sys2Proof/Machine/Load.lean ====
section
/-! DEFINITION. The loads (43_load.md). -/

namespace Sys2Proof.Machine

/-- Steps 2 to 4 of a load as far as they do not depend on the destination: MAR <- addr, MBR <- MEM[addr],
PC <- p + 2 (R87, R88). -/
def loadOperand (addr : Byte) (s : State) : State :=
  ((s.setMar addr).setMbr (absoluteByte s addr)).setPc (s.pc + 1)

/-- LDA addr (R87): A <- MEM[addr]. -/
def execLda (addr : Byte) (s : State) : Host.Outcome State Fault Refusal :=
  let s := loadOperand addr (fetchInstr (Instr.lda addr).opcode s)
  .next (endInstr (s.setA (absoluteByte s addr)))

/-- LDB addr (R88): B <- MEM[addr]. -/
def execLdb (addr : Byte) (s : State) : Host.Outcome State Fault Refusal :=
  let s := loadOperand addr (fetchInstr (Instr.ldb addr).opcode s)
  .next (endInstr (s.setB (absoluteByte s addr)))

end Sys2Proof.Machine
end

