-- ==== Sys2Proof/Machine/Move.lean ====
section
/-! DEFINITION. Register moves (48_move.md). -/

namespace Sys2Proof.Machine

/-- MOVAB (R113): B <- A. -/
def execMovab (s : State) : Host.Outcome State Fault Refusal :=
  let s := fetchInstr Instr.movab.opcode s
  .next (endInstr (s.setB s.a))

/-- MOVBA (R114): A <- B. -/
def execMovba (s : State) : Host.Outcome State Fault Refusal :=
  let s := fetchInstr Instr.movba.opcode s
  .next (endInstr (s.setA s.b))

end Sys2Proof.Machine
end

