-- ==== Sys2Proof/Machine/NopHalt.lean ====
section
/-! DEFINITION. No-op and halt (42_nop_halt.md). -/

namespace Sys2Proof.Machine

/-- NOP (R85): nothing but the fetch. -/
def execNop (s : State) : Host.Outcome State Fault Refusal :=
  .next (endInstr (fetchInstr Instr.nop.opcode s))

/-- HLT (R86): HALTED <- true. The run's result code is A. -/
def execHlt (s : State) : Host.Outcome State Fault Refusal :=
  .next (endInstr ((fetchInstr Instr.hlt.opcode s).setHalted true))

end Sys2Proof.Machine
end

