-- ==== Sys2Proof/Machine/Output.lean ====
section
/-! DEFINITION. Output (46_output.md). -/

namespace Sys2Proof.Machine

/-- OUT (R107): A is appended to OUTPUT; the channel never refuses a byte (R127). -/
def execOut (s : State) : Host.Outcome State Fault Refusal :=
  let s := fetchInstr Instr.out.opcode s
  .next (endInstr (s.setOutput (s.output ++ [s.a])))

end Sys2Proof.Machine
end

