-- ==== Sys2Proof/Machine/Jump.lean ====
section
/-! DEFINITION. The jumps (44_jump.md). -/

namespace Sys2Proof.Machine

/-- The jump path, from a state whose PC is at the operand byte: MAR <- PC, MBR <- target, PC <- target (R90). -/
def takeJump (target : Byte) (s : State) : State := ((s.setMar s.pc).setMbr target).setPc target

/-- The other path of a conditional jump: PC skips the operand byte (R91). -/
def skipOperand (s : State) : State := s.setPc (s.pc + 1)

/-- A conditional jump on a flag of the fetched state (R89, R91 to R93). -/
def conditionalJump (tested : Bool) (target : Byte) (s : State) : State :=
  if tested then takeJump target s else skipOperand s

/-- JMP target (R90). -/
def execJmp (target : Byte) (s : State) : Host.Outcome State Fault Refusal :=
  .next (endInstr (takeJump target (fetchInstr (Instr.jmp target).opcode s)))

/-- JZ target (R91): jumps when FLAGS.Z = 1. -/
def execJz (target : Byte) (s : State) : Host.Outcome State Fault Refusal :=
  let s := fetchInstr (Instr.jz target).opcode s
  .next (endInstr (conditionalJump (flagZ s.flags) target s))

/-- JN target (R92): jumps when FLAGS.N = 1. -/
def execJn (target : Byte) (s : State) : Host.Outcome State Fault Refusal :=
  let s := fetchInstr (Instr.jn target).opcode s
  .next (endInstr (conditionalJump (flagN s.flags) target s))

/-- JC target (R93): jumps when FLAGS.C = 1. -/
def execJc (target : Byte) (s : State) : Host.Outcome State Fault Refusal :=
  let s := fetchInstr (Instr.jc target).opcode s
  .next (endInstr (conditionalJump (flagC s.flags) target s))

end Sys2Proof.Machine
end

