-- ==== Sys2Proof/Machine/Stack.lean ====
section
/-! DEFINITION. Stack and subroutines (47_stack.md). -/

namespace Sys2Proof.Machine

/-- The push bus pattern of PUSH and JSR, steps 2 and 3: MEM[StackAddr(SP)] <- value, MAR and MBR hold the address and
the value, SP <- SP + 1 mod STACK_SIZE (R108, R110). -/
def pushByte (value : Byte) (s : State) : State :=
  (((s.setMar (pushAddr s)).setMbr value).setMem (s.mem.write (pushAddr s) value)).setSp (spIncremented s.cfg s.sp)

/-- The pop bus pattern of POP and RTS, steps 2 and 3: SP <- SP − 1 mod STACK_SIZE, MAR <- StackAddr(SP), MBR <- the
byte there (R109, R111). -/
def popByte (s : State) : State :=
  ((s.setSp (spDecremented s.cfg s.sp)).setMar (popAddr s)).setMbr (s.mem.read (popAddr s))

/-- PUSH (R108). -/
def execPush (s : State) : Host.Outcome State Fault Refusal :=
  let s := fetchInstr Instr.push.opcode s
  .next (endInstr (pushByte s.a s))

/-- POP (R109): A <- the popped byte. -/
def execPop (s : State) : Host.Outcome State Fault Refusal :=
  let s := popByte (fetchInstr Instr.pop.opcode s)
  .next (endInstr (s.setA s.mbr))

/-- The operand byte of JSR as its step 4 reads it: the push comes first, so where the operand byte lies at
StackAddr(SP) it
is the pushed byte (R110; DEDUCED, log entry 10). -/
def operandAfterPush (target : Byte) (s : State) : Byte := if pushAddr s = s.pc then s.pc else target

/-- JSR target (R110): pushes p + 1, then jumps to the operand byte as it is after the push. -/
def execJsr (target : Byte) (s : State) : Host.Outcome State Fault Refusal :=
  let s := fetchInstr (Instr.jsr target).opcode s
  .next (endInstr (takeJump (operandAfterPush target s) (pushByte s.pc s)))

/-- RTS (R111): PC <- the popped byte + 1. -/
def execRts (s : State) : Host.Outcome State Fault Refusal :=
  let s := popByte (fetchInstr Instr.rts.opcode s)
  .next (endInstr (s.setPc (s.mbr + 1)))

end Sys2Proof.Machine
end

