-- ==== Sys2Proof/Machine/Dispatch.lean ====
section
/-! DEFINITION. The meaning of each instruction, one arm a constructor. -/

namespace Sys2Proof.Machine

def exec (i : Instr) (s : State) : Host.Outcome State Fault Refusal :=
  match i with
  | .nop => Sys2Proof.Machine.execNop s
  | .hlt => Sys2Proof.Machine.execHlt s
  | .lda addr => Sys2Proof.Machine.execLda addr s
  | .ldb addr => Sys2Proof.Machine.execLdb addr s
  | .jmp target => Sys2Proof.Machine.execJmp target s
  | .add => Sys2Proof.Machine.execAdd s
  | .sub => Sys2Proof.Machine.execSub s
  | .xor => Sys2Proof.Machine.execXor s
  | .and => Sys2Proof.Machine.execAnd s
  | .out => Sys2Proof.Machine.execOut s
  | .jz target => Sys2Proof.Machine.execJz target s
  | .jn target => Sys2Proof.Machine.execJn target s
  | .jc target => Sys2Proof.Machine.execJc target s
  | .push => Sys2Proof.Machine.execPush s
  | .pop => Sys2Proof.Machine.execPop s
  | .jsr target => Sys2Proof.Machine.execJsr target s
  | .rts => Sys2Proof.Machine.execRts s
  | .movab => Sys2Proof.Machine.execMovab s
  | .movba => Sys2Proof.Machine.execMovba s

end Sys2Proof.Machine
end

