-- ==== Sys2Proof/Machine/Step.lean ====
section
/-! DEFINITION. One step of the machine: one whole instruction (DESIGN CHOICE, log entry 2). The tick, the spec's own
unit, is
`tick`; the statements say that a step is a run of ticks. -/

namespace Sys2Proof.Machine

/-- One step. A faulted machine answers its recorded fault, a halted one is refused (R84). At an instruction
boundary (STEP = 0) the bytes at PC are decoded and the instruction runs; an undefined opcode does what R116 or R117
says. In the middle of an instruction the remaining ticks of that instruction run. -/
def step (s : State) : Host.Outcome State Fault Refusal :=
  match s.fault with
  | some record => .fault record
  | none =>
    if s.halted then .refused .halted
    else if s.stepCtr = 0 then
      match decode (fetchBytes s) with
      | .ok (i, _) => exec i s
      | .error _ => .next (undefinedOpcode s)
    else ticksToEnd (s.cfg.nSteps + 1) s

/-- The state with an instruction's bytes stored at PC and (PC + 1) mod 256, and the machine at an instruction
boundary of
a run that has not ended, so that the next step fetches and runs exactly that instruction (log entry 4). -/
def State.withFetchWord (s : State) (nbits w : Nat) : State :=
  match tableBytes nbits w with
  | [opcode, operand] =>
    (((s.setMem ((s.mem.write s.pc opcode).write (s.pc + 1) operand)).setStepCtr 0).setHalted false).setFault none
  | _ => s

end Sys2Proof.Machine
end

