-- ==== Sys2Proof/Machine/Boot.lean ====
section
/-! DEFINITION. Reset with a program image (R131 to R134). The ROM is a constant function, so building it (R68)
leaves no
trace here. Getting the bytes from a file is out of scope (R5). -/

namespace Sys2Proof.Machine

/-- Why a load is refused before any tick; no machine state exists then, so FAULT is not set (R133). -/
inductive LoadError where
  /-- "malformed program image (wrong length)": the image has this many bytes (R133) -/
  | wrongLength (length : Nat)
  /-- the program bytes cannot be obtained at all (R133) -/
  | unavailable
  deriving DecidableEq, Repr

/-- The memory at reset: the image from address 0 on, zeros in the stack region (R132). -/
def imageMemory (image : List Byte) : Memory := Memory.writeList [] 0 image

/-- Reset for a run: the image is checked and loaded, and every register and engine field takes its reset
value (R131 to R133). Nothing is truncated or padded. R7 and R8 give the constraints on N_STEPS and STACK_SIZE and do
not say what a run asked for with values outside them does: `boot` does not check `cfg` and answers a state for any
(DESIGN CHOICE, log entry 9). -/
def boot (cfg : Config) (image? : Option (List Byte)) : Except LoadError State :=
  match image? with
  | none => .error .unavailable
  | some image =>
    if imageAccepted cfg image then .ok (State.resetWith cfg (imageMemory image)) else .error (.wrongLength image.length)

end Sys2Proof.Machine
end

