-- ==== Sys2Proof/Machine/Assembler.lean ====
section
/-! DEFINITION. The assembly syntax of R55, from the characters of a line to the bytes of an image. Every point of the
syntax that R55 leaves open and these definitions settle is in log entry 16 (DESIGN CHOICE). -/

namespace Sys2Proof.Machine

/-- A word of a source line. -/
abbrev Token := List Char

/-- What stands for an operand byte: a number, or a label that stands for an address (R55). -/
inductive AsmOperand where
  | number (value : Byte)
  | label (name : Token)
  deriving DecidableEq, Repr

/-- One thing a source line says (R55). -/
inductive AsmItem where
  /-- `label:` -/
  | label (name : Token)
  /-- a mnemonic of format OP -/
  | op (opcode : Byte)
  /-- a mnemonic of format OP_ADDR and its operand -/
  | opAddr (opcode : Byte) (operand : AsmOperand)
  /-- `.byte v` -/
  | byte (value : AsmOperand)
  /-- `.org a` -/
  | org (addr : Byte)
  deriving DecidableEq, Repr

/-- The mnemonics of format OP (R51). -/
def opMnemonics : List (Token × Byte) :=
  [(['N', 'O', 'P'], 0x00), (['H', 'L', 'T'], 0x01), (['A', 'D', 'D'], 0x05), (['S', 'U', 'B'], 0x06),
    (['X', 'O', 'R'], 0x07), (['A', 'N', 'D'], 0x08), (['O', 'U', 'T'], 0x09), (['P', 'U', 'S', 'H'], 0x0D),
    (['P', 'O', 'P'], 0x0E), (['R', 'T', 'S'], 0x10), (['M', 'O', 'V', 'A', 'B'], 0x11),
    (['M', 'O', 'V', 'B', 'A'], 0x12)]

/-- The mnemonics of format OP_ADDR (R51). -/
def opAddrMnemonics : List (Token × Byte) :=
  [(['L', 'D', 'A'], 0x02), (['L', 'D', 'B'], 0x03), (['J', 'M', 'P'], 0x04), (['J', 'Z'], 0x0A), (['J', 'N'], 0x0B),
    (['J', 'C'], 0x0C), (['J', 'S', 'R'], 0x0F)]

/-- The value of a digit in a base, none if the character is no digit of it. -/
def digitValue? (base : Nat) (c : Char) : Option Nat :=
  let code := c.toNat
  let value :=
    if 48 ≤ code ∧ code ≤ 57 then code - 48
    else if 65 ≤ code ∧ code ≤ 70 then code - 55
    else if 97 ≤ code ∧ code ≤ 102 then code - 87
    else base
  if value < base then some value else none

/-- The value of a run of digits after `acc`, at least one digit being there already. -/
def digitsValue? (base : Nat) : Nat → Token → Option Nat
  | acc, [] => some acc
  | acc, c :: rest =>
    match digitValue? base c with
    | some d => digitsValue? base (acc * base + d) rest
    | none => none

/-- A number without regard to its range: `0x..` hexadecimal or decimal (R55). -/
def numeral? : Token → Option Nat
  | [] => none
  | ['0', 'x'] => none
  | '0' :: 'x' :: digits => digitsValue? 16 0 digits
  | digits => digitsValue? 10 0 digits

/-- A number in 0 to 255 (R55). -/
def number? (token : Token) : Option Byte :=
  match numeral? token with
  | some value => if value ≤ 255 then some (BitVec.ofNat 8 value) else none
  | none => none

/-- An operand: a number if it begins with a digit, else a label (R55). A `#` before it means nothing. R55 does not say
whether blanks may follow the `#`: here none may, so `LDA # 0x05` is refused (DESIGN CHOICE, log entry 16). -/
def asmOperand? : Token → Option AsmOperand
  | [] => none
  | '#' :: token => plain token
  | token => plain token
where
  plain : Token → Option AsmOperand
    | [] => none
    | c :: rest =>
      match digitValue? 10 c with
      | some _ => (number? (c :: rest)).map .number
      | none => some (.label (c :: rest))

/-- The words of a line, up to a `;`. `word` holds the characters of the word being read, the last one first. R55 says
nothing of whitespace: here spaces and tabs alone part the words, so no `:` and no `#` does (DESIGN CHOICE, log entry
16). -/
def tokensFrom (word : Token) : List Char → List Token
  | [] => if word = [] then [] else [word.reverse]
  | c :: rest =>
    if c = ';' then (if word = [] then [] else [word.reverse])
    else if c = ' ' ∨ c = '\t' then (if word = [] then tokensFrom [] rest else word.reverse :: tokensFrom [] rest)
    else tokensFrom (c :: word) rest

/-- What the words of a line say after its label, if it has one (R55). R55 does not say what `a` may be in `.org a`: here
it is a plain number, and a label or a `#` is refused (DESIGN CHOICE, log entry 16). -/
def asmBody? : List Token → Option (List AsmItem)
  | [] => some []
  | [mnemonic] => (opMnemonics.lookup mnemonic).map fun opcode => [.op opcode]
  | [first, second] =>
    if first = ['.', 'b', 'y', 't', 'e'] then (asmOperand? second).map fun value => [.byte value]
    else if first = ['.', 'o', 'r', 'g'] then (number? second).map fun addr => [.org addr]
    else
      match opAddrMnemonics.lookup first with
      | some opcode => (asmOperand? second).map fun operand => [.opAddr opcode operand]
      | none => none
  | _ :: _ :: _ :: _ => none

/-- What a line says: an optional `label:` and then at most one instruction or directive (R55). R55 does not say
whether a blank must part the two: here it must, so `loop: OUT` is accepted, as in the programs of 95_test_vectors.md,
and `loop:OUT` is refused (DESIGN CHOICE, log entry 16). -/
def asmLine? (line : List Char) : Option (List AsmItem) :=
  match tokensFrom [] line with
  | [] => some []
  | first :: rest =>
    if first.getLast? = some ':' then (asmBody? rest).map fun items => .label first.dropLast :: items
    else asmBody? (first :: rest)

/-- What every line says, none if a line is refused. -/
def asmLines? : List (List Char) → Option (List AsmItem)
  | [] => some []
  | line :: rest =>
    match asmLine? line, asmLines? rest with
    | some items, some more => some (items ++ more)
    | _, _ => none

/-- The bytes an item takes. -/
def AsmItem.size : AsmItem → Nat
  | .label _ => 0
  | .op _ => 1
  | .opAddr _ _ => 2
  | .byte _ => 1
  | .org _ => 0

/-- The current address after an item (R55). -/
def AsmItem.nextAddr (addr : Nat) : AsmItem → Nat
  | .org target => target.toNat
  | item => addr + item.size

/-- The address of each label, from the current address on. -/
def labelTable : Nat → List AsmItem → List (Token × Nat)
  | _, [] => []
  | addr, .label name :: rest => (name, addr) :: labelTable addr rest
  | addr, item :: rest => labelTable (item.nextAddr addr) rest

/-- The value of an operand: a label stands for its address (R55). A label at 256, past the last byte, is refused here,
where it is used (DESIGN CHOICE, log entry 16). -/
def AsmOperand.value? (labels : List (Token × Nat)) : AsmOperand → Option Byte
  | .number value => some value
  | .label name =>
    match labels.lookup name with
    | some addr => if addr ≤ 255 then some (BitVec.ofNat 8 addr) else none
    | none => none

/-- The bytes of an item (R50, R55). -/
def AsmItem.bytes? (labels : List (Token × Nat)) : AsmItem → Option (List Byte)
  | .label _ => some []
  | .op opcode => some [opcode]
  | .opAddr opcode operand => (operand.value? labels).map fun value => [opcode, value]
  | .byte operand => (operand.value? labels).map fun value => [value]
  | .org _ => some []

/-- Places the bytes of each item in an image, from the current address on. R55 does not say what the current address is
after a byte at 0xFF: here it is 256, it does not wrap, and no byte may be placed there. So an OP_ADDR line after
`.org 0xFF` is refused, though an instruction at 0xFF has its operand at 0x00 when it runs (R49), and a label at 256 is
accepted as long as no operand uses it (DESIGN CHOICE, log entry 16). -/
def placeItems? (labels : List (Token × Nat)) : Nat → List AsmItem → Memory → Option Memory
  | _, [], m => some m
  | addr, item :: rest, m =>
    match item.bytes? labels with
    | some bytes =>
      if addr + bytes.length ≤ 256 then placeItems? labels (item.nextAddr addr) rest (m.writeList addr bytes) else none
    | none => none

/-- Assembles source lines into the bytes they place; every other byte is 0x00. The current address is 0x00 before the
first line, which R55 does not say (DESIGN CHOICE, log entry 16). -/
def assemble? (lines : List (List Char)) : Option Memory :=
  match asmLines? lines with
  | some items => placeItems? (labelTable 0 items) 0 items []
  | none => none

/-- The image of a program region: the bytes below STACK_OFFSET (R37, R133). -/
def imageOf (cfg : Config) (m : Memory) : List Byte := (List.range cfg.stackOffset).map m.readAt

/-- The mnemonic of an instruction (R51). -/
def mnemonic : Instr → Token
  | .nop => ['N', 'O', 'P']
  | .hlt => ['H', 'L', 'T']
  | .lda _ => ['L', 'D', 'A']
  | .ldb _ => ['L', 'D', 'B']
  | .jmp _ => ['J', 'M', 'P']
  | .add => ['A', 'D', 'D']
  | .sub => ['S', 'U', 'B']
  | .xor => ['X', 'O', 'R']
  | .and => ['A', 'N', 'D']
  | .out => ['O', 'U', 'T']
  | .jz _ => ['J', 'Z']
  | .jn _ => ['J', 'N']
  | .jc _ => ['J', 'C']
  | .push => ['P', 'U', 'S', 'H']
  | .pop => ['P', 'O', 'P']
  | .jsr _ => ['J', 'S', 'R']
  | .rts => ['R', 'T', 'S']
  | .movab => ['M', 'O', 'V', 'A', 'B']
  | .movba => ['M', 'O', 'V', 'B', 'A']

/-- The digit of a value below 16, in the form of R55. -/
def hexDigit (value : Nat) : Char := if value < 10 then Char.ofNat (48 + value) else Char.ofNat (55 + value)

/-- A byte as `0x` and two digits. -/
def hexByte (value : Byte) : Token := ['0', 'x', hexDigit (value.toNat / 16), hexDigit (value.toNat % 16)]

/-- One source line for an instruction, its operand a number (R55). -/
def sourceLine (i : Instr) : List Char :=
  match i.operand? with
  | none => mnemonic i
  | some operand => mnemonic i ++ ' ' :: hexByte operand

end Sys2Proof.Machine
end

