-- ==== Sys2Proof/Machine/Run.lean ====
section
/-! DEFINITION. A run of ticks and what its caller receives (R136), and the cycle counts (R141). -/

namespace Sys2Proof.Machine

/-- How a run ended, with the final snapshot; OUTPUT is a field of the snapshot (R136). -/
inductive RunReport where
  /-- HLT ended the run; the result code is A (R86, R136) -/
  | halted (final : State) (resultCode : Byte)
  /-- a fault ended the run; there is no result code (R136) -/
  | faulted (final : State) (record : Fault)
  /-- the tick bound ran out; this report is not a machine state (R136) -/
  | notTerminated (reached : State)
  deriving DecidableEq, Repr

/-- Runs at most `bound` ticks (R136). -/
def runTicks (bound : Nat) (s : State) : RunReport :=
  match s.fault with
  | some record => .faulted s record
  | none =>
    if s.halted then .halted s s.a
    else
      match bound with
      | 0 => .notTerminated s
      | bound + 1 => runTicks bound (runningTick s)

/-- The final used step of an instruction whose execute words are chosen under a flags value (R67 (b)). -/
def lastStep (opcode : Byte) (flags : FlagWord) : Nat := 1 + (executeWords opcode flags).length

/-- The ticks of each instruction (R141), under the FLAGS value a conditional jump tests. -/
def tickCount (i : Instr) (flags : FlagWord) : Nat :=
  match i with
  | .nop => 3
  | .hlt => 3
  | .lda _ => 5
  | .ldb _ => 5
  | .jmp _ => 4
  | .add => 3
  | .sub => 3
  | .xor => 3
  | .and => 3
  | .out => 3
  | .jz _ => if flagZ flags then 4 else 3
  | .jn _ => if flagN flags then 4 else 3
  | .jc _ => if flagC flags then 4 else 3
  | .push => 4
  | .pop => 5
  | .jsr _ => 6
  | .rts => 5
  | .movab => 3
  | .movba => 3

end Sys2Proof.Machine
end

