-- ==== Sys2Proof/Safety.lean ====
section
/-! DEFINITION. The terms the statements use: where an instruction can start, what it means that it runs, and the
invariants of a tick and of a step. -/

namespace Sys2Proof.Machine

/-- The run has not ended: neither halted nor faulted (R84). -/
structure Running (s : State) : Prop where
  noFault : s.fault = none
  notHalted : s.halted = false

/-- The ALU phase would write what is there already. Every completed tick leaves such a state, because the ALU phase
comes last
in it (R70); it is why step 0 of the next instruction changes no flag (R106, C10). -/
abbrev AluSettled (s : State) : Prop := aluPhase s = s

/-- A state in which an instruction starts: parameters within their constraints, a run that has not ended, STEP = 0,
and the
ALU settled. -/
structure Ready (s : State) : Prop where
  cfgWellFormed : s.cfg.wellFormed = true
  running : Running s
  atFetch : s.stepCtr = 0
  aluSettled : AluSettled s

/-- The bytes at PC are those of an instruction (R49). -/
abbrev HoldsInstr (i : Instr) (s : State) : Prop := encode i <+: fetchBytes s

/-- The instruction that starts in `s` ends in `t` after exactly `n` ticks: a step answers `t`; `n` ticks of the
ROM-driven
datapath from `s` end in `t`, at STEP = 0; and after each smaller number `k` of ticks the instruction is still in
progress, at STEP = k. -/
structure TicksTo (n : Nat) (s t : State) : Prop where
  stepAnswers : step s = .next t
  ticksAnswer : ticks n s = .next t
  endsAtFetch : t.stepCtr = 0
  inProgress : ∀ k, 0 < k → k < n → ∃ u, ticks k s = .next u ∧ u.stepCtr = k ∧ Running u

/-- The meaning of one instruction applied `n` times. -/
def execTimes (i : Instr) : Nat → State → Host.Outcome State Fault Refusal
  | 0, s => .next s
  | n + 1, s =>
    match exec i s with
    | .next t => execTimes i n t
    | .fault record => .fault record
    | .refused reason => .refused reason

/-- What holds in every state that ticks reach from reset, and is kept by each tick. -/
structure TickInv (s : State) : Prop where
  /-- the parameters meet their constraints (R7, R8) -/
  cfgWellFormed : s.cfg.wellFormed = true
  /-- memory keeps its canonical form -/
  memWf : s.mem.wf = true
  /-- SP is 0 to STACK_SIZE − 1 (R28, R112) -/
  spInRange : s.sp < s.cfg.stackSize
  /-- STEP is 0 to N_STEPS − 1 (R22) -/
  stepInRange : s.stepCtr < s.cfg.nSteps
  /-- FLAGS bit 4 is 0 (R99) -/
  flagsReserved : flagReserved s.flags = false
  /-- ALU_FLAGS bit 4 is 0 (R99, R101) -/
  aluFlagsReserved : flagReserved s.aluFlags = false
  /-- ALU_FLAGS stays as reset left it where it does not exist (R27) -/
  aluFlagsAbsent : s.cfg.flagsMode = .everyAluCycle → s.aluFlags = 0
  /-- the ALU phase has nothing left to write (R106) -/
  aluSettled : AluSettled s
  /-- after the first tick of an instruction MBR holds MEM[MAR] (R74) -/
  bufferCurrent : s.stepCtr ≠ 0 → s.mbr = s.mem.read s.mar
  /-- when PUSH or JSR is about to write, MAR holds the stack address (R43, R108, R110) -/
  storeAddress : s.stepCtr = 3 → s.ir = 0x0D ∨ s.ir = 0x0F → s.mar = stackAddr s.cfg s.sp
  /-- no defined instruction runs past its final used step (R67 (b)) -/
  withinMicrocode : 2 ≤ s.stepCtr → validOpcode s.ir = true → s.stepCtr ≤ lastStep s.ir s.flags
  /-- in fault mode no execute step of an undefined opcode runs (R116) -/
  undefinedStops : s.cfg.undefinedMode = .fault → validOpcode s.ir = false → s.stepCtr ≤ 2
  /-- only HLT halts, and it leaves STEP = 0 (R80, R86) -/
  haltedByHlt : s.halted = true → s.ir = 0x01 ∧ s.stepCtr = 0 ∧ s.fault = none
  /-- a recorded fault is InvalidOpcode of IR and PC, raised at STEP = 2 in fault mode (R116, R118) -/
  faultPrecise : ∀ record, s.fault = some record →
    record = .invalidOpcode s.ir s.pc ∧ validOpcode s.ir = false ∧ s.stepCtr = 2 ∧ s.cfg.undefinedMode = .fault

/-- The invariant of whole steps: that of ticks, and a run that has not faulted stands at an instruction boundary. -/
structure StepInv (s : State) : Prop where
  tickInv : TickInv s
  atBoundary : s.fault = none → s.stepCtr = 0

end Sys2Proof.Machine
end

