-- ==== Sys2Proof/Certificates/Slice0/Obligations.lean ====
section
/-! DEFINITION. The statements for the provers. Each docstring names the rule it formalises. Where a rule marks a
clause as the
spec's own decision (D<n> of 92_eei_decisions.md) or its own derivation, the statement is listed as derived. -/

open Sys2Proof Sys2Proof.Machine

/-! ## Encoding -/

/-- R49 to R53: decoding and encoding agree, with every operand at every value: bytes decode to `i`, leaving `rest`,
exactly when they are the bytes of `i` followed by `rest`. Every instruction is well formed, so none is left out. -/
def Obligations.DecodeInvertsEncode : Prop :=
  ∀ (i : Instr) (bytes rest : List Byte), decode bytes = .ok (i, rest) ↔ bytes = encode i ++ rest

/-- R51: a few words written out from the opcode map decode to the instructions they stand for. -/
def Obligations.SampleWordsDecode : Prop :=
  decode [0x00] = .ok (.nop, []) ∧ decode [0x02, 0x80] = .ok (.lda 0x80, []) ∧ decode [0x05] = .ok (.add, []) ∧
  decode [0x09] = .ok (.out, []) ∧ decode [0x0C, 0x40] = .ok (.jc 0x40, []) ∧ decode [0x0D] = .ok (.push, []) ∧
  decode [0x0F, 0x10] = .ok (.jsr 0x10, []) ∧ decode [0x12] = .ok (.movba, []) ∧
  decode [0x13] = .error (.undefinedOpcode 0x13)

/-- R54: exactly the 237 values 0x13 to 0xFF are undefined, whatever follows them; their ROM entries are the fetch
words at steps 0 and 1 and the all-zero word at every execute step; and every operand value is legal. -/
def Obligations.UndefinedOpcodesAreRejected : Prop :=
  (∀ (opcode : Byte) (rest : List Byte),
    decode (opcode :: rest) = .error (.undefinedOpcode opcode) ↔ 0x13 ≤ opcode.toNat) ∧
  ((List.range 256).countP fun v => !validOpcode (BitVec.ofNat 8 v)) = 237 ∧
  (∀ (opcode : Byte) (flags : FlagWord), 0x13 ≤ opcode.toNat →
    rom opcode 0 flags = 0x00009 ∧ rom opcode 1 flags = 0x00094 ∧ ∀ n, 2 ≤ n → rom opcode n flags = 0) ∧
  (∀ (opcode operand : Byte) (rest : List Byte), opcodeLength? opcode = some 2 →
    ∃ i, decode (opcode :: operand :: rest) = .ok (i, rest) ∧ i.operand? = some operand)

/-- R53: the length of an instruction is told from its opcode byte alone. -/
def Obligations.OpcodeAloneGivesLength : Prop :=
  (∀ i : Instr, opcodeLength? i.opcode = some (encode i).length) ∧
  (∀ opcode : Byte, opcodeLength? opcode = some 2 ↔ opcode ∈ ([0x02, 0x03, 0x04, 0x0A, 0x0B, 0x0C, 0x0F] : List Byte)) ∧
  (∀ opcode : Byte, opcodeLength? opcode = none ↔ validOpcode opcode = false)

/-- R55: the source line of each instruction, its operand written as a number, assembles to the bytes of the
instruction at address 0, and a `#` before the operand means nothing. The syntax is the spec's decision D2; that the
first line starts at address 0x00 is the model's choice (DESIGN CHOICE, log entry 16). -/
def Obligations.SourceAssemblesToItsBytes : Prop :=
  (∀ i : Instr, assemble? [sourceLine i] = some (imageMemory (encode i))) ∧
  (∀ (i : Instr) (operand : Byte), i.operand? = some operand →
    assemble? [mnemonic i ++ [' ', '#'] ++ hexByte operand] = some (imageMemory (encode i)))

/-! ## The control-word ROM -/

/-- R67 (a), (g), (h), (i): no word of the ROM has two drivers, a word with a receiver has exactly one driver, no word
has two receivers, and the exclusions hold. -/
def Obligations.RomWordsKeepTheBusRules : Prop :=
  ∀ (opcode : Byte) (n : Nat) (flags : FlagWord),
    (assertedDrivers (rom opcode n flags)).length ≤ 1 ∧
    (assertedReceivers (rom opcode n flags) ≠ [] → (assertedDrivers (rom opcode n flags)).length = 1) ∧
    (assertedReceivers (rom opcode n flags)).length ≤ 1 ∧
    ¬(asserts (rom opcode n flags) .spInc ∧ asserts (rom opcode n flags) .spDec) ∧
    ¬(asserts (rom opcode n flags) .memWe ∧ asserts (rom opcode n flags) .memOut) ∧
    (asserts (rom opcode n flags) .memWe → asserts (rom opcode n flags) .mbrIn) ∧
    (asserts (rom opcode n flags) .pcIn ∧ asserts (rom opcode n flags) .pcInc → opcode = 0x10 ∧ n = 4)

/-- R67 (b), (c), (e): the final used step of each instruction, one less than its tick count (R141), is in 2 to 5 and
is the only execute step that asserts STEP_RST; every later word is zero; and the fetch words are the same for all. -/
def Obligations.DefinedMicrocodeEnds : Prop :=
  ∀ (i : Instr) (flags : FlagWord), ∃ last, tickCount i flags = last + 1 ∧ 2 ≤ last ∧ last ≤ 5 ∧
    rom i.opcode 0 flags = 0x00009 ∧ rom i.opcode 1 flags = 0x00094 ∧
    (∀ n, 2 ≤ n → (asserts (rom i.opcode n flags) .stepRst = true ↔ n = last)) ∧
    (∀ n, last < n → rom i.opcode n flags = 0)

/-- R67 (f): only JZ, JN and JC have words that depend on flags, each through its one tested bit. -/
def Obligations.OnlyTestedFlagSelectsWords : Prop :=
  ∀ (opcode : Byte) (n : Nat) (flags flags' : FlagWord),
    (opcode = 0x0A → flagZ flags = flagZ flags') → (opcode = 0x0B → flagN flags = flagN flags') →
    (opcode = 0x0C → flagC flags = flagC flags') → rom opcode n flags = rom opcode n flags'

/-- R61: the ROM as a table indexed by the concatenated address, 8 + SW + 5 bits wide, holds the word of each key. -/
def Obligations.RomTableHoldsEveryKey : Prop :=
  ∀ (cfg : Config) (opcode : Byte) (n : Nat) (flags : FlagWord), n < cfg.nSteps →
    romTable cfg (romAddr cfg opcode n flags) = rom opcode n flags ∧
    romAddr cfg opcode n flags < 2 ^ (8 + stepFieldWidth cfg + 5)

/-! ## The ALU function -/

/-- R94 to R99: the result of each ALU operation as a number, and each flag of it. The borrow sense of SUB's carry,
the even sense of parity, C = 0 for XOR and AND, and the zero and negative tests are the spec's decisions D16 to D20. -/
def Obligations.AluFlagsDescribeTheResult : Prop :=
  (∀ a b : Byte, (aluResult .add a b).toNat = (a.toNat + b.toNat) % 256 ∧
    (aluResult .sub a b).toNat = (a.toNat + 256 - b.toNat) % 256 ∧
    (∀ k, (aluResult .xor a b).getLsbD k = (a.getLsbD k != b.getLsbD k)) ∧
    (∀ k, (aluResult .and a b).getLsbD k = (a.getLsbD k && b.getLsbD k)) ∧
    (flagC (aluFlagWord .add a b) = true ↔ 256 ≤ a.toNat + b.toNat) ∧
    (flagC (aluFlagWord .sub a b) = true ↔ a.toNat < b.toNat) ∧
    flagC (aluFlagWord .xor a b) = false ∧ flagC (aluFlagWord .and a b) = false) ∧
  (∀ (op : AluOp) (a b : Byte), (flagZ (aluFlagWord op a b) = true ↔ (aluResult op a b).toNat = 0) ∧
    (flagN (aluFlagWord op a b) = true ↔ 128 ≤ (aluResult op a b).toNat) ∧
    (flagP (aluFlagWord op a b) = true ↔
      Even (Finset.univ.filter fun k : Fin 8 => (aluResult op a b).getLsbD k = true).card) ∧
    flagReserved (aluFlagWord op a b) = false)

/-! ## One tick -/

/-- R39, R70, R73 to R80: what a tick does to every register but the ALU latch and the two flag registers, for every
word with at most one driver, those of the ROM or not: the six receivers, then the seven utilities. MBR is what MBR_IN
left in it when MEM_WE is asserted, and else the byte at MAR. That an undriven bus carries 0x00 is the spec's decision
D12 (log entry 8). -/
def Obligations.TickTransfersThroughTheBus : Prop :=
  ∀ (word : ControlWord) (s : State) (bus : Byte),
    ((assertedDrivers word = [] ∧ bus = 0x00) ∨ (assertedDrivers word = [.pcOut] ∧ bus = s.pc) ∨
      (assertedDrivers word = [.memOut] ∧ bus = s.mbr) ∨ (assertedDrivers word = [.aOut] ∧ bus = s.a) ∨
      (assertedDrivers word = [.bOut] ∧ bus = s.b) ∨ (assertedDrivers word = [.aluOut] ∧ bus = s.alu) ∨
      (assertedDrivers word = [.spOut] ∧ bus = stackAddr s.cfg s.sp)) →
    (tickWord word s).a = (if asserts word .aIn then bus else s.a) ∧
    (tickWord word s).b = (if asserts word .bIn then bus else s.b) ∧
    (tickWord word s).ir = (if asserts word .irIn then bus else s.ir) ∧
    (tickWord word s).mar = (if asserts word .marIn then bus else s.mar) ∧
    (tickWord word s).mbr = (if asserts word .memWe then (if asserts word .mbrIn then bus else s.mbr)
      else s.mem.read (tickWord word s).mar) ∧
    (tickWord word s).pc = (if asserts word .pcIn then bus else s.pc) + (if asserts word .pcInc then 1 else 0) ∧
    (tickWord word s).sp = nextSp word s.cfg s.sp ∧
    (tickWord word s).stepCtr = (if asserts word .stepRst then 0 else (s.stepCtr + 1) % s.cfg.nSteps) ∧
    (tickWord word s).output = s.output ++ (if asserts word .out then [(tickWord word s).a] else []) ∧
    (tickWord word s).halted = (s.halted || asserts word .hlt) ∧
    (tickWord word s).fault = s.fault ∧ (tickWord word s).cfg = s.cfg

/-- R39: the one access of a tick, chosen by MEM_WE alone, with MAR and MBR as they stand after the bus-in phase; a
write stores the value MBR_IN loaded in the same tick. -/
def Obligations.EachTickAccessesMemoryOnce : Prop :=
  ∀ (word : ControlWord) (s : State), (assertedDrivers word).length ≤ 1 →
    let bus := busValue (assertedDrivers word) s
    let mar := if asserts word .marIn then bus else s.mar
    let mbr := if asserts word .mbrIn then bus else s.mbr
    (asserts word .memWe = true →
      (∀ a, (tickWord word s).mem.read a = if a = mar then mbr else s.mem.read a) ∧ (tickWord word s).mbr = mbr) ∧
    (asserts word .memWe = false → (tickWord word s).mem = s.mem ∧ (tickWord word s).mbr = s.mem.read mar)

/-- R77: PC_INC adds 1 modulo 256 to PC as it stands after phase 3, and wraps without a fault. -/
def Obligations.PcIncrementWraps : Prop :=
  ∀ (word : ControlWord) (s : State), (assertedDrivers word).length ≤ 1 → asserts word .pcInc = true →
    (tickWord word s).pc.toNat =
      ((if asserts word .pcIn then busValue (assertedDrivers word) s else s.pc).toNat + 1) % 256 ∧
    (tickWord word s).fault = s.fault

/-- R78: SP_INC and SP_DEC move SP modulo STACK_SIZE, in that order; a word asserting both leaves SP unchanged, and no
ROM word does. -/
def Obligations.StackPointerWrapsWithinStack : Prop :=
  (∀ (word : ControlWord) (s : State), (assertedDrivers word).length ≤ 1 → s.cfg.wellFormed = true →
    s.sp < s.cfg.stackSize →
    (asserts word .spInc = true → asserts word .spDec = false →
      (tickWord word s).sp = (s.sp + 1) % s.cfg.stackSize) ∧
    (asserts word .spInc = false → asserts word .spDec = true →
      ((tickWord word s).sp : Int) = ((s.sp : Int) - 1) % (s.cfg.stackSize : Int)) ∧
    (asserts word .spInc = asserts word .spDec → (tickWord word s).sp = s.sp)) ∧
  (∀ (opcode : Byte) (n : Nat) (flags : FlagWord),
    ¬(asserts (rom opcode n flags) .spInc = true ∧ asserts (rom opcode n flags) .spDec = true))

/-- R82, R100: the ALU phase ends every tick, on the opcode then in IR, whatever the control word: an ALU opcode
writes the latch and, with every_alu_cycle, all of FLAGS (with at_writeback ALU_FLAGS, FLAGS being copied by ALU_OUT
only); any other IR value writes nothing. -/
def Obligations.AluPhaseEndsEveryTick : Prop :=
  ∀ (word : ControlWord) (s : State), (assertedDrivers word).length ≤ 1 →
    match aluOpOf (tickWord word s).ir, s.cfg.flagsMode with
    | none, .everyAluCycle => (tickWord word s).alu = s.alu ∧ (tickWord word s).flags = s.flags ∧
        (tickWord word s).aluFlags = s.aluFlags
    | none, .atWriteback => (tickWord word s).alu = s.alu ∧
        (tickWord word s).flags = (if asserts word .aluOut then s.aluFlags else s.flags) ∧
        (tickWord word s).aluFlags = s.aluFlags
    | some op, .everyAluCycle => (tickWord word s).alu = aluResult op (tickWord word s).a (tickWord word s).b ∧
        (tickWord word s).flags = aluFlagWord op (tickWord word s).a (tickWord word s).b ∧
        (tickWord word s).aluFlags = s.aluFlags
    | some op, .atWriteback => (tickWord word s).alu = aluResult op (tickWord word s).a (tickWord word s).b ∧
        (tickWord word s).flags = (if asserts word .aluOut then s.aluFlags else s.flags) ∧
        (tickWord word s).aluFlags = aluFlagWord op (tickWord word s).a (tickWord word s).b

/-- R21, R24, R43, R79, R80: under the ROM, only fetch step 1 writes IR; FLAGS changes only while IR holds an ALU
opcode; memory only in step 3 of PUSH and JSR; SP only in the stack instructions; OUTPUT only in OUT; HALTED only in
HLT. FAULT changes only with an undefined opcode in IR: R116 and R118, the spec's decisions D14 and D13 (the ROM has
no word with two drivers, R67 (a)). -/
def Obligations.EachRegisterHasItsWriters : Prop :=
  ∀ s t : State, tick s = .next t →
    (t.ir ≠ s.ir → s.stepCtr = 1) ∧
    (t.flags ≠ s.flags → (aluOpOf t.ir).isSome = true) ∧
    (t.mem ≠ s.mem → s.stepCtr = 3 ∧ (s.ir = 0x0D ∨ s.ir = 0x0F)) ∧
    (t.sp ≠ s.sp → s.ir ∈ ([0x0D, 0x0E, 0x0F, 0x10] : List Byte)) ∧
    (t.output ≠ s.output → s.stepCtr = 2 ∧ s.ir = 0x09 ∧ t.output = s.output ++ [s.a]) ∧
    (t.halted ≠ s.halted → s.stepCtr = 2 ∧ s.ir = 0x01) ∧
    (t.fault ≠ s.fault → validOpcode s.ir = false) ∧ t.cfg = s.cfg

/-! ## Faults and the end of a run -/

/-- R118, R73, R115: a word with two or more drivers sets FAULT to BusContention of the word and changes nothing else,
and the machine then has no tick. The behaviour is the spec's decision D13. -/
def Obligations.BusContentionStopsTheTick : Prop :=
  ∀ (word : ControlWord) (s : State), 2 ≤ (assertedDrivers word).length →
    tickWord word s = { s with fault := some (.busContention word) } ∧
    tick (tickWord word s) = .fault (.busContention word)

/-- R115, R116: in fault mode a tick at STEP ≥ 2 with an undefined opcode in IR records InvalidOpcode of IR and PC and
changes nothing else. The behaviour is the spec's decision D14. -/
def Obligations.InvalidOpcodeStopsTheTick : Prop :=
  ∀ s : State, Running s → s.cfg.undefinedMode = .fault → 2 ≤ s.stepCtr → 0x13 ≤ s.ir.toNat →
    tick s = .next { s with fault := some (.invalidOpcode s.ir s.pc) }

/-- R116: an undefined opcode in fault mode is fetched in two ticks and faults in the third, with the state precise;
the next step answers the fault. The detection point is the spec's decision D37. -/
def Obligations.UndefinedOpcodeFaultsPrecisely : Prop :=
  ∀ s : State, Ready s → s.cfg.undefinedMode = .fault → 0x13 ≤ (s.mem.read s.pc).toNat →
    let opcode := s.mem.read s.pc
    let fetched : State := { s with pc := s.pc + 1, mar := s.pc, mbr := opcode, ir := opcode, stepCtr := 2 }
    let stopped : State := { fetched with fault := some (.invalidOpcode opcode (s.pc + 1)) }
    ticks 2 s = .next fetched ∧ ticks 3 s = .next stopped ∧ step s = .next stopped ∧
    step stopped = .fault (.invalidOpcode opcode (s.pc + 1))

/-- R117: an undefined opcode in rom_literal mode is a one-byte no-op of N_STEPS ticks. -/
def Obligations.UndefinedOpcodeIsLiteralNoOp : Prop :=
  ∀ s : State, Ready s → s.cfg.undefinedMode = .romLiteral → 0x13 ≤ (s.mem.read s.pc).toNat →
    let opcode := s.mem.read s.pc
    TicksTo s.cfg.nSteps s { s with pc := s.pc + 1, mar := s.pc, mbr := opcode, ir := opcode, stepCtr := 0 }

/-- R84, R130: a faulted machine and a halted machine have no tick and no step. -/
def Obligations.EndedRunHasNoTick : Prop :=
  (∀ (s : State) (record : Fault), s.fault = some record → tick s = .fault record ∧ step s = .fault record) ∧
  (∀ s : State, s.fault = none → s.halted = true → tick s = .refused .halted ∧ step s = .refused .halted)

/-- Derived from R119, R116, R118 and R67 (a): no arithmetic or address event raises anything; the carry, the borrow,
PC, SP and the operand address wrap, and every instruction completes from every state with FAULT as it was. The clause
that only an undefined opcode makes a tick raise a fault is R116's condition (the spec's decisions D14 and D37), with
R118 (D13) and R67 (a) for the other fault; that such a tick answers a next state holding the record is the model's
choice (log entry 3). -/
def Obligations.NothingElseRaisesAFault : Prop :=
  (∀ (i : Instr) (s : State), ∃ t, exec i s = .next t ∧ t.fault = s.fault) ∧
  (∀ s t : State, tick s = .next t → t.fault ≠ none →
    s.cfg.undefinedMode = .fault ∧ 2 ≤ s.stepCtr ∧ 0x13 ≤ s.ir.toNat) ∧
  (∀ s t : State, exec .add s = .next t → t.a.toNat = (s.a.toNat + s.b.toNat) % 256) ∧
  (∀ s t : State, exec .sub s = .next t → t.a.toNat = (s.a.toNat + 256 - s.b.toNat) % 256) ∧
  (∀ s t : State, s.pc = 0xFF → exec .nop s = .next t → t.pc = 0x00) ∧
  (∀ s t : State, s.cfg.wellFormed = true → s.sp + 1 = s.cfg.stackSize → exec .push s = .next t → t.sp = 0) ∧
  (∀ s t : State, s.cfg.wellFormed = true → s.sp = 0 → exec .pop s = .next t → t.sp + 1 = s.cfg.stackSize) ∧
  (∀ s : State, s.pc = 0xFF → fetchBytes s = [s.mem.read 0xFF, s.mem.read 0x00])

/-! ## The instructions -/

/-- R85. -/
def Obligations.NopOnlyFetches : Prop :=
  encode .nop = [0x00] ∧ (∀ flags, rom 0x00 2 flags = 0x20000) ∧
  ∀ s : State, AluSettled s →
    let t : State := { s with pc := s.pc + 1, mar := s.pc, mbr := 0x00, ir := 0x00, stepCtr := 0 }
    exec .nop s = .next t ∧ (Ready s → HoldsInstr .nop s → TicksTo 3 s t)

/-- Derived from R86, R84 and R136: HLT ends the run after its third tick, and nothing resumes it. What a bounded run
reports, A as the result code, is R136 (the spec's decisions D27 and D38); that a tick or a step of the halted machine
answers the refusal `halted` is the model's choice (DESIGN CHOICE, log entry 3). -/
def Obligations.HltEndsTheRun : Prop :=
  encode .hlt = [0x01] ∧ (∀ flags, rom 0x01 2 flags = 0x60000) ∧
  ∀ s : State, AluSettled s →
    let t : State := { s with pc := s.pc + 1, mar := s.pc, mbr := 0x01, ir := 0x01, stepCtr := 0, halted := true }
    exec .hlt s = .next t ∧
    (Ready s → HoldsInstr .hlt s → TicksTo 3 s t ∧ (∀ n, 3 ≤ n → runTicks n s = .halted t s.a) ∧
      tick t = .refused .halted ∧ step t = .refused .halted)

/-- R87, R88: the loads. No other register, no flag and no byte of memory changes. -/
def Obligations.LoadsReadTheAbsoluteAddress : Prop :=
  ∀ addr : Byte, encode (.lda addr) = [0x02, addr] ∧ encode (.ldb addr) = [0x03, addr] ∧
  (∀ flags, rom 0x02 2 flags = 0x00009 ∧ rom 0x02 3 flags = 0x0001C ∧ rom 0x02 4 flags = 0x20110 ∧
    rom 0x03 2 flags = 0x00009 ∧ rom 0x03 3 flags = 0x0001C ∧ rom 0x03 4 flags = 0x20410) ∧
  ∀ s : State, AluSettled s →
    let tA : State := { s with
      a := s.mem.read addr, pc := s.pc + 2, mar := addr, mbr := s.mem.read addr, ir := 0x02, stepCtr := 0 }
    let tB : State := { s with
      b := s.mem.read addr, pc := s.pc + 2, mar := addr, mbr := s.mem.read addr, ir := 0x03, stepCtr := 0 }
    exec (.lda addr) s = .next tA ∧ (Ready s → HoldsInstr (.lda addr) s → TicksTo 5 s tA) ∧
    exec (.ldb addr) s = .next tB ∧ (Ready s → HoldsInstr (.ldb addr) s → TicksTo 5 s tB)

/-- R90. -/
def Obligations.JmpTransfersControl : Prop :=
  ∀ target : Byte, encode (.jmp target) = [0x04, target] ∧
  (∀ flags, rom 0x04 2 flags = 0x00009 ∧ rom 0x04 3 flags = 0x20012) ∧
  ∀ s : State, AluSettled s →
    let t : State := { s with pc := target, mar := s.pc + 1, mbr := target, ir := 0x04, stepCtr := 0 }
    exec (.jmp target) s = .next t ∧ (Ready s → HoldsInstr (.jmp target) s → TicksTo 4 s t)

/-- Derived from R91 to R93, R101 and R106: the conditional jumps, taken and not taken, with the corner cases of the
three rules. What Z, N and C mean here rests on the flag rules: the at_writeback clauses on R101 and R106, which are
the spec's decision D15 and a derivation of its own (log entry 5). -/
def Obligations.ConditionalJumpsTestOneFlag : Prop :=
  (∀ (target : Byte) (i : Instr) (opcode : Byte) (tested : FlagWord → Bool),
    (i = .jz target ∧ opcode = 0x0A ∧ tested = flagZ ∨ i = .jn target ∧ opcode = 0x0B ∧ tested = flagN ∨
      i = .jc target ∧ opcode = 0x0C ∧ tested = flagC) →
    encode i = [opcode, target] ∧
    (∀ flags, tested flags = true → rom opcode 2 flags = 0x00009 ∧ rom opcode 3 flags = 0x20012) ∧
    (∀ flags, tested flags = false → rom opcode 2 flags = 0x20004) ∧
    ∀ s : State, AluSettled s →
      let taken : State := { s with pc := target, mar := s.pc + 1, mbr := target, ir := opcode, stepCtr := 0 }
      let notTaken : State := { s with pc := s.pc + 2, mar := s.pc, mbr := opcode, ir := opcode, stepCtr := 0 }
      (tested s.flags = true → exec i s = .next taken ∧ (Ready s → HoldsInstr i s → TicksTo 4 s taken)) ∧
      (tested s.flags = false → exec i s = .next notTaken ∧ (Ready s → HoldsInstr i s → TicksTo 3 s notTaken))) ∧
  (∀ s t : State, s.cfg.flagsMode = .everyAluCycle → exec .sub s = .next t → (flagZ t.flags = true ↔ t.a - t.b = 0)) ∧
  (∀ (i : Instr) (op : AluOp), (i = .add ∧ op = .add ∨ i = .sub ∧ op = .sub ∨ i = .xor ∧ op = .xor ∨
      i = .and ∧ op = .and) → ∀ s t : State, exec i s = .next t →
    (s.cfg.flagsMode = .everyAluCycle → flagN t.flags = (aluResult op t.a t.b).getLsbD 7) ∧
    (s.cfg.flagsMode = .atWriteback → flagN t.flags = t.a.getLsbD 7)) ∧
  (∀ s t : State, s.a = 250 → s.b = 10 → exec .add s = .next t →
    flagC t.flags = decide (s.cfg.flagsMode = .atWriteback))

/-- R102 to R106: the four ALU instructions, in both flag modes: A, the latch, FLAGS and ALU_FLAGS as the table of
R106 gives them. The flags rest on the spec's decisions D15 to D20. -/
def Obligations.AluInstructionsLeaveTheirTable : Prop :=
  ∀ (i : Instr) (op : AluOp) (opcode : Byte),
    (i = .add ∧ op = .add ∧ opcode = 0x05 ∨ i = .sub ∧ op = .sub ∧ opcode = 0x06 ∨
      i = .xor ∧ op = .xor ∧ opcode = 0x07 ∨ i = .and ∧ op = .and ∧ opcode = 0x08) →
    encode i = [opcode] ∧ (∀ flags, rom opcode 2 flags = 0x21100) ∧
    ∀ s : State,
      let a1 := aluResult op s.a s.b
      let t : State := { s with
        a := a1, pc := s.pc + 1, mar := s.pc, mbr := opcode, ir := opcode, stepCtr := 0, alu := aluResult op a1 s.b,
        flags := (match s.cfg.flagsMode with
          | .everyAluCycle => aluFlagWord op a1 s.b
          | .atWriteback => aluFlagWord op s.a s.b),
        aluFlags := (match s.cfg.flagsMode with
          | .everyAluCycle => s.aluFlags
          | .atWriteback => aluFlagWord op a1 s.b) }
      exec i s = .next t ∧ (Ready s → HoldsInstr i s → TicksTo 3 s t)

/-- R107: OUT appends A to OUTPUT. That the channel never refuses a byte is the spec's decision D28. -/
def Obligations.OutAppendsA : Prop :=
  encode .out = [0x09] ∧ (∀ flags, rom 0x09 2 flags = 0x30000) ∧
  ∀ s : State, AluSettled s →
    let t : State := { s with
      output := s.output ++ [s.a], pc := s.pc + 1, mar := s.pc, mbr := 0x09, ir := 0x09, stepCtr := 0 }
    exec .out s = .next t ∧ (Ready s → HoldsInstr .out s → TicksTo 3 s t)

/-- R108: PUSH stores A at the old SP's slot and then increments SP. -/
def Obligations.PushStoresAndIncrements : Prop :=
  encode .push = [0x0D] ∧ (∀ flags, rom 0x0D 2 flags = 0x02008 ∧ rom 0x0D 3 flags = 0x24260) ∧
  ∀ s : State, AluSettled s →
    let t : State := { s with
      mem := s.mem.write (pushAddr s) s.a, sp := (s.sp + 1) % s.cfg.stackSize, pc := s.pc + 1, mar := pushAddr s,
      mbr := s.a, ir := 0x0D, stepCtr := 0 }
    exec .push s = .next t ∧ (Ready s → HoldsInstr .push s → TicksTo 4 s t)

/-- R109: POP decrements SP and then reads its slot into A; the slot is not cleared; and a PUSH followed at once by a
POP restores A and SP, whatever the flags. -/
def Obligations.PopDecrementsAndLoads : Prop :=
  encode .pop = [0x0E] ∧
  (∀ flags, rom 0x0E 2 flags = 0x08000 ∧ rom 0x0E 3 flags = 0x02008 ∧ rom 0x0E 4 flags = 0x20110) ∧
  (∀ s : State, AluSettled s →
    let t : State := { s with
      a := s.mem.read (popAddr s), sp := spDecremented s.cfg s.sp, pc := s.pc + 1, mar := popAddr s,
      mbr := s.mem.read (popAddr s), ir := 0x0E, stepCtr := 0 }
    exec .pop s = .next t ∧ (Ready s → HoldsInstr .pop s → TicksTo 5 s t)) ∧
  ∀ s : State, s.cfg.wellFormed = true → s.sp < s.cfg.stackSize →
    ∃ t u, exec .push s = .next t ∧ exec .pop t = .next u ∧ u.a = s.a ∧ u.sp = s.sp ∧ u.mem = t.mem

/-- R110: JSR pushes p + 1 and jumps to its operand byte, which it reads after the push. The step numbers are the
spec's decision D23. -/
def Obligations.JsrPushesThenReadsItsOperand : Prop :=
  ∀ target : Byte, encode (.jsr target) = [0x0F, target] ∧
  (∀ flags, rom 0x0F 2 flags = 0x02008 ∧ rom 0x0F 3 flags = 0x04061 ∧ rom 0x0F 4 flags = 0x00009 ∧
    rom 0x0F 5 flags = 0x20012) ∧
  ∀ s : State, AluSettled s →
    let operand : Byte := if pushAddr s = s.pc + 1 then s.pc + 1 else target
    let t : State := { s with
      mem := s.mem.write (pushAddr s) (s.pc + 1), sp := (s.sp + 1) % s.cfg.stackSize, pc := operand, mar := s.pc + 1,
      mbr := operand, ir := 0x0F, stepCtr := 0 }
    exec (.jsr target) s = .next t ∧ (HoldsInstr (.jsr target) s → operand = t.mem.read (s.pc + 1)) ∧
    (Ready s → HoldsInstr (.jsr target) s → TicksTo 6 s t)

/-- R111: RTS pops the saved byte and jumps one past it. The step numbers are the spec's decision D22. -/
def Obligations.RtsReturnsPastTheOperand : Prop :=
  encode .rts = [0x10] ∧
  (∀ flags, rom 0x10 2 flags = 0x08000 ∧ rom 0x10 3 flags = 0x02008 ∧ rom 0x10 4 flags = 0x20016) ∧
  ∀ s : State, AluSettled s →
    let t : State := { s with
      pc := s.mem.read (popAddr s) + 1, sp := spDecremented s.cfg s.sp, mar := popAddr s,
      mbr := s.mem.read (popAddr s), ir := 0x10, stepCtr := 0 }
    exec .rts s = .next t ∧ (Ready s → HoldsInstr .rts s → TicksTo 5 s t)

/-- R113, R114: the register moves. Which opcode is which direction is the spec's decision D1. -/
def Obligations.MovesCopyOneRegister : Prop :=
  encode .movab = [0x11] ∧ encode .movba = [0x12] ∧
  (∀ flags, rom 0x11 2 flags = 0x20600 ∧ rom 0x12 2 flags = 0x20900) ∧
  ∀ s : State, AluSettled s →
    let tB : State := { s with b := s.a, pc := s.pc + 1, mar := s.pc, mbr := 0x11, ir := 0x11, stepCtr := 0 }
    let tA : State := { s with a := s.b, pc := s.pc + 1, mar := s.pc, mbr := 0x12, ir := 0x12, stepCtr := 0 }
    exec .movab s = .next tB ∧ (Ready s → HoldsInstr .movab s → TicksTo 3 s tB) ∧
    exec .movba s = .next tA ∧ (Ready s → HoldsInstr .movba s → TicksTo 3 s tA)

/-! ## Frames -/

/-- R43: every instruction but PUSH and JSR leaves every byte of memory as it was. -/
def Obligations.NonStoringInstructionsKeepMemory : Prop :=
  ∀ (i : Instr) (s t : State), exec i s = .next t → i.opcode ≠ 0x0D → i.opcode ≠ 0x0F →
    ∀ a, t.mem.read a = s.mem.read a

/-- R43, R108, R110: PUSH and JSR store one byte, at the stack address of the SP before the push, which lies in the
stack region; every other byte of memory is as it was. -/
def Obligations.PushAndJsrStoreOneByte : Prop :=
  ∀ (i : Instr) (value : Byte) (s t : State),
    (i = .push ∧ value = s.a ∨ (∃ target, i = .jsr target) ∧ value = s.pc + 1) → exec i s = .next t →
    t.mem.read (pushAddr s) = value ∧ (∀ a, a ≠ pushAddr s → t.mem.read a = s.mem.read a) ∧
    (s.cfg.wellFormed = true → s.sp < s.cfg.stackSize → (pushAddr s).toNat = 256 - s.cfg.stackSize + s.sp)

/-- R14, R15, R24, R28, R30: what each instruction leaves alone: A, B, SP, OUTPUT, HALTED, FAULT, the parameters, and,
from a settled state, FLAGS, ALU_FLAGS and the latch, except where the rules name the instruction as a writer. -/
def Obligations.InstructionsKeepOtherRegisters : Prop :=
  ∀ (i : Instr) (s t : State), exec i s = .next t →
    (i.opcode ∉ ([0x02, 0x05, 0x06, 0x07, 0x08, 0x0E, 0x12] : List Byte) → t.a = s.a) ∧
    (i.opcode ∉ ([0x03, 0x11] : List Byte) → t.b = s.b) ∧
    (i.opcode ∉ ([0x0D, 0x0E, 0x0F, 0x10] : List Byte) → t.sp = s.sp) ∧
    (i.opcode ≠ 0x09 → t.output = s.output) ∧ (i.opcode ≠ 0x01 → t.halted = s.halted) ∧
    t.fault = s.fault ∧ t.cfg = s.cfg ∧
    (AluSettled s → i.opcode ∉ ([0x05, 0x06, 0x07, 0x08] : List Byte) →
      t.flags = s.flags ∧ t.aluFlags = s.aluFlags ∧ t.alu = s.alu)

/-! ## The stack -/

/-- R112: JSR at p followed at once by RTS resumes at p + 2 with SP restored. -/
def Obligations.JsrThenRtsResumes : Prop :=
  ∀ (target : Byte) (s : State), s.cfg.wellFormed = true → s.sp < s.cfg.stackSize →
    ∃ t u, exec (.jsr target) s = .next t ∧ exec .rts t = .next u ∧ u.pc = s.pc + 2 ∧ u.sp = s.sp

/-- 47_stack.md: SP is the number of bytes pushed modulo STACK_SIZE, however many are pushed, and after STACK_SIZE
pushes of one A every slot of the ring holds it. -/
def Obligations.StackPointerCountsPushes : Prop :=
  ∀ (n : Nat) (s : State), s.cfg.wellFormed = true → s.sp < s.cfg.stackSize →
    ∃ t, execTimes .push n s = .next t ∧ t.sp = (s.sp + n) % s.cfg.stackSize ∧ t.a = s.a ∧
      (∀ k, k < n → t.mem.read (stackAddr s.cfg ((s.sp + k) % s.cfg.stackSize)) = s.a)

/-- R37, R43, R112: no step and no tick of a machine that meets its invariant writes the program region. -/
def Obligations.ProgramRegionIsNeverWritten : Prop :=
  (∀ s t : State, StepInv s → step s = .next t →
    ∀ a : Byte, a.toNat < 256 - s.cfg.stackSize → t.mem.read a = s.mem.read a) ∧
  (∀ s t : State, TickInv s → tick s = .next t →
    ∀ a : Byte, a.toNat < 256 - s.cfg.stackSize → t.mem.read a = s.mem.read a)

/-! ## Whole steps -/

/-- A step runs the decoded instruction: at an instruction boundary of a run that has not ended, when the bytes at PC
decode to `i`, the step is the meaning of `i` and nothing more. -/
def Obligations.StepRunsTheDecodedInstruction : Prop :=
  ∀ (s : State) (i : Instr) (rest : List Byte), Running s → s.stepCtr = 0 → decode (fetchBytes s) = .ok (i, rest) →
    step s = exec i s

/-- R69 to R72, R76, R142; that the model has both ticks and whole steps is its choice (DESIGN CHOICE, log entry 2). A
step of the model, written from the instruction rules, is a run of ticks of the ROM-driven datapath: in every state of
a run that has not ended, whatever stands at PC and wherever STEP is, the step answers what some number of ticks, at
most N_STEPS, answers, and that tick is the first to end an instruction. -/
def Obligations.StepIsARunOfTicks : Prop :=
  ∀ s : State, s.cfg.wellFormed = true → Running s → s.stepCtr < s.cfg.nSteps →
    ∃ n t, 0 < n ∧ n ≤ s.cfg.nSteps ∧ step s = .next t ∧ ticks n s = .next t ∧ instructionEnded t = true ∧
      ∀ k, 0 < k → k < n → ∃ u, ticks k s = .next u ∧ instructionEnded u = false

/-- R141: every instruction takes exactly the ticks of the table, for every N_STEPS ≥ 6 and under whichever flags it
starts with. -/
def Obligations.InstructionsTakeTheirTicks : Prop :=
  ∀ (i : Instr) (s : State), Ready s → HoldsInstr i s →
    ∃ t, exec i s = .next t ∧ TicksTo (tickCount i s.flags) s t

/-- R86, R107, R116, R121: at an instruction boundary, a step halts exactly when the byte at PC is HLT, faults exactly
when it is an undefined opcode in fault mode, and emits A exactly when it is OUT. -/
def Obligations.OnlyHltHaltsAndOnlyOutEmits : Prop :=
  ∀ s t : State, s.stepCtr = 0 → step s = .next t →
    (t.halted = true ↔ s.mem.read s.pc = 0x01) ∧
    (t.fault ≠ none ↔ s.cfg.undefinedMode = .fault ∧ 0x13 ≤ (s.mem.read s.pc).toNat) ∧
    t.output = s.output ++ (if s.mem.read s.pc = 0x09 then [s.a] else [])

/-! ## Invariants -/

/-- R22, R27, R28, R43, R67 (b), R74, R99, R106, R116: every tick keeps the invariant of ticks. -/
def Obligations.EveryTickKeepsItsInvariant : Prop :=
  ∀ s t : State, TickInv s → tick s = .next t → TickInv t

/-- Every step keeps the invariant of steps. -/
def Obligations.EveryStepKeepsItsInvariant : Prop :=
  ∀ s t : State, StepInv s → step s = .next t → StepInv t

/-- The invariant of steps, and with it that of ticks, holds right after reset. -/
def Obligations.ResetMeetsTheInvariant : Prop := StepInv State.reset

/-- R131 to R135: whatever image is accepted under whatever parameters within their constraints, the machine starts in
a state that meets the invariant and in which an instruction can start. -/
def Obligations.BootMeetsTheInvariant : Prop :=
  ∀ (cfg : Config) (image : List Byte) (s : State), cfg.wellFormed = true → boot cfg (some image) = .ok s →
    StepInv s ∧ Ready s ∧ s.cfg = cfg

/-! ## Reset and loading -/

/-- R32, R134: the reset values. Those of ALU_FLAGS, HALTED, FAULT and OUTPUT are the spec's decision D35; the
parameters and the empty memory are the model's choices (log entries 1 and 4). -/
def Obligations.ResetValues : Prop :=
  State.reset.a = 0x00 ∧ State.reset.b = 0x00 ∧ State.reset.pc = 0x00 ∧ State.reset.mar = 0x00 ∧
  State.reset.mbr = 0x00 ∧ State.reset.ir = 0x00 ∧ State.reset.alu = 0x00 ∧ State.reset.stepCtr = 0 ∧
  State.reset.flags = 0b00000 ∧ State.reset.aluFlags = 0b00000 ∧ State.reset.sp = 0 ∧ State.reset.halted = false ∧
  State.reset.fault = none ∧ State.reset.output = [] ∧ ∀ a, State.reset.mem.read a = 0x00

/-- R132, R133: an image is accepted exactly when it has 256 − STACK_SIZE bytes; then memory holds it verbatim from
address 0 with zeros above it, and every register has its reset value. The region's length and the zeros are the
spec's decision D24. -/
def Obligations.ImageIsLoadedVerbatimOrRefused : Prop :=
  ∀ (cfg : Config) (image : List Byte), cfg.wellFormed = true →
    boot cfg none = .error .unavailable ∧
    (image.length ≠ 256 - cfg.stackSize → boot cfg (some image) = .error (.wrongLength image.length)) ∧
    (image.length = 256 - cfg.stackSize → ∃ s, boot cfg (some image) = .ok s ∧ s = State.resetWith cfg s.mem ∧
      (∀ a : Byte, a.toNat < image.length → image[a.toNat]? = some (s.mem.read a)) ∧
      (∀ a : Byte, image.length ≤ a.toNat → s.mem.read a = 0x00))

/-! ## Consequences -/

/-- R90, R136: a jump to itself never ends the run, however many ticks are allowed. -/
def Obligations.JumpToItselfNeverEnds : Prop :=
  ∀ (s : State) (bound : Nat), Ready s → HoldsInstr (.jmp s.pc) s →
    ∃ t, ticks bound s = .next t ∧ runTicks bound s = .notTerminated t

/-- R138: what FLAGS describes after an ALU instruction, in each mode. With every_alu_cycle Z after SUB means A0 = 2B
and C after ADD is the carry of A1 + B; with at_writeback they mean A0 = B and the carry of A0 + B. AND gives the same
FLAGS in both modes. -/
def Obligations.FlagHazardOfEachMode : Prop :=
  (∀ s t : State, exec .sub s = .next t →
    (s.cfg.flagsMode = .everyAluCycle → (flagZ t.flags = true ↔ s.a = s.b + s.b)) ∧
    (s.cfg.flagsMode = .atWriteback → (flagZ t.flags = true ↔ s.a = s.b))) ∧
  (∀ s t : State, exec .add s = .next t →
    (s.cfg.flagsMode = .everyAluCycle → (flagC t.flags = true ↔ 256 ≤ t.a.toNat + s.b.toNat)) ∧
    (s.cfg.flagsMode = .atWriteback → (flagC t.flags = true ↔ 256 ≤ s.a.toNat + s.b.toNat)) ∧
    (s.b = 0 → t.a = s.a ∧ (flagZ t.flags = true ↔ s.a = 0))) ∧
  (∀ s t : State, s.cfg.flagsMode = .everyAluCycle → exec .xor s = .next t →
    (flagZ t.flags = true ↔ s.a = 0) ∧ flagN t.flags = s.a.getLsbD 7) ∧
  (∀ s t : State, exec .and s = .next t → t.flags = aluFlagWord .and s.a s.b)

/-- R31: MAR and MBR are never observable: at an instruction boundary they do not matter to the step at all. -/
def Obligations.MarAndMbrAreUnobservable : Prop :=
  ∀ (s : State) (mar mbr : Byte), Running s → s.stepCtr = 0 → step ((s.setMar mar).setMbr mbr) = step s

/-- R31, R98, R99: FLAGS bits 3 and 4 are never observable: two states that differ in them only step to two states
that again differ in them only, at most. So the statement chains over a run. -/
def Obligations.ParityIsUnobservable : Prop :=
  ∀ (s : State) (flags : FlagWord), Running s → s.stepCtr = 0 →
    flagC flags = flagC s.flags → flagZ flags = flagZ s.flags → flagN flags = flagN s.flags →
    ∃ t t' : State, step s = .next t ∧ step (s.setFlags flags) = .next t' ∧ t' = t.setFlags t'.flags ∧
      flagC t'.flags = flagC t.flags ∧ flagZ t'.flags = flagZ t.flags ∧ flagN t'.flags = flagN t.flags
end

