-- ==== Sys2Proof/Laws/Control.lean ====
section
/-! SUPPORT. The words of the ROM in the hex form of R64 and R66, and what each asserts. The proofs turn the word
into its
hex form and compute. -/

namespace Sys2Proof.Machine

/-- A word made of a list of signals asserts exactly the listed ones. -/
theorem asserts_wordOf (signals : List Signal) (signal : Signal) :
    asserts (wordOf signals) signal = decide (signal ∈ signals) := by
  induction signals with
  | nil => simp [asserts, wordOf]
  | cons first rest ih =>
    have hfirst : (BitVec.twoPow 19 first.bit).getLsbD signal.bit = decide (signal = first) := by
      cases first <;> cases signal <;> decide
    simp only [asserts, wordOf, BitVec.getLsbD_or, hfirst, List.mem_cons, Bool.decide_or] at ih ⊢
    rw [ih]

/-! The hex forms. -/

theorem wordPcToMar_eq : wordPcToMar = 0x00009 := by decide
theorem wordFetchOpcode_eq : wordFetchOpcode = 0x00094 := by decide
theorem wordNop_eq : wordNop = 0x20000 := by decide
theorem wordHalt_eq : wordHalt = 0x60000 := by decide
theorem wordOperandToMar_eq : wordOperandToMar = 0x0001C := by decide
theorem wordMemToA_eq : wordMemToA = 0x20110 := by decide
theorem wordMemToB_eq : wordMemToB = 0x20410 := by decide
theorem wordMemToPc_eq : wordMemToPc = 0x20012 := by decide
theorem wordAluToA_eq : wordAluToA = 0x21100 := by decide
theorem wordOut_eq : wordOut = 0x30000 := by decide
theorem wordSkipOperand_eq : wordSkipOperand = 0x20004 := by decide
theorem wordSpToMar_eq : wordSpToMar = 0x02008 := by decide
theorem wordPushA_eq : wordPushA = 0x24260 := by decide
theorem wordPushPc_eq : wordPushPc = 0x04061 := by decide
theorem wordSpDec_eq : wordSpDec = 0x08000 := by decide
theorem wordReturn_eq : wordReturn = 0x20016 := by decide
theorem wordAToB_eq : wordAToB = 0x20600 := by decide
theorem wordBToA_eq : wordBToA = 0x20900 := by decide

/-! The words an opcode's execute steps can hold. -/

/-- Every word of the ROM is one of the eighteen named words or the all-zero word. -/
theorem executeWords_mem (opcode : Byte) (flags : FlagWord) (word : ControlWord) (h : word ∈ executeWords opcode flags) :
    word ∈ [wordNop, wordHalt, wordPcToMar, wordOperandToMar, wordMemToA, wordMemToB, wordMemToPc, wordAluToA, wordOut,
      wordSkipOperand, wordSpToMar, wordPushA, wordPushPc, wordSpDec, wordReturn, wordAToB, wordBToA] := by
  unfold executeWords jumpWords conditionalJumpWords jumpWords at h
  split at h
  all_goals try split at h
  all_goals simp only [List.mem_cons, List.not_mem_nil, or_false] at h ⊢ <;> tauto

theorem rom_mem (opcode : Byte) (step : Nat) (flags : FlagWord) :
    rom opcode step flags ∈ [0, wordFetchOpcode, wordNop, wordHalt, wordPcToMar, wordOperandToMar, wordMemToA, wordMemToB,
      wordMemToPc, wordAluToA, wordOut, wordSkipOperand, wordSpToMar, wordPushA, wordPushPc, wordSpDec, wordReturn,
      wordAToB, wordBToA] := by
  match step with
  | 0 => simp [rom]
  | 1 => simp [rom]
  | k + 2 =>
    simp only [rom, List.getD_eq_getElem?_getD]
    by_cases hk : k < (executeWords opcode flags).length
    · rw [List.getElem?_eq_getElem hk, Option.getD_some]
      have h := executeWords_mem opcode flags _ (List.getElem_mem hk)
      simp only [List.mem_cons, List.not_mem_nil, or_false] at h ⊢
      tauto
    · rw [List.getElem?_eq_none (by omega)]
      simp

end Sys2Proof.Machine
end

