-- ==== Sys2Proof/Laws/Encoding.lean ====
section
/-! SUPPORT. Small lemmas of the opcode map and of the encoder. -/

namespace Sys2Proof

/-- Every instruction is well formed, because its operand is a byte (R54). -/
theorem Instr.wellFormed_always (i : Instr) : i.wellFormed = true := by
  unfold Instr.wellFormed
  cases h : i.operand? with
  | none => rfl
  | some operand =>
    have := operand.isLt
    simp only [Option.all_some, decide_eq_true_eq]
    omega

/-- The opcode byte of each instruction selects that instruction's form. -/
theorem opcodeForm_opcode (i : Instr) :
    (i.operand? = none ∧ opcodeForm i.opcode = .op i) ∨
      ∃ operand withOperand, i.operand? = some operand ∧ withOperand operand = i ∧
        opcodeForm i.opcode = .opAddr withOperand := by
  cases i
  all_goals first
    | exact .inl ⟨rfl, rfl⟩
    | exact .inr ⟨_, _, rfl, rfl, rfl⟩

/-- A byte that selects an instruction of format OP is that instruction's opcode, and it has no operand. -/
theorem opcode_of_form_op {opcode : Byte} {i : Instr} (h : opcodeForm opcode = .op i) :
    opcode = i.opcode ∧ i.operand? = none := by
  unfold opcodeForm at h
  split at h
  all_goals cases h
  all_goals exact ⟨BitVec.eq_of_toNat_eq (by assumption), rfl⟩

/-- A byte that selects an instruction of format OP_ADDR is the opcode of that instruction with any operand. -/
theorem opcode_of_form_opAddr {opcode : Byte} {withOperand : Byte → Instr}
    (h : opcodeForm opcode = .opAddr withOperand) (operand : Byte) :
    opcode = (withOperand operand).opcode ∧ (withOperand operand).operand? = some operand := by
  unfold opcodeForm at h
  split at h
  all_goals cases h
  all_goals exact ⟨BitVec.eq_of_toNat_eq (by assumption), rfl⟩

/-- A byte selects nothing exactly when the `valid` output is false for it (R62). -/
theorem form_undefined_iff (opcode : Byte) : opcodeForm opcode = .undefined ↔ validOpcode opcode = false := by
  unfold opcodeForm validOpcode
  split
  all_goals simp_all
  omega

/-- The opcode of every instruction is a defined one. -/
theorem validOpcode_opcode (i : Instr) : validOpcode i.opcode = true := by cases i <;> rfl

end Sys2Proof
end

