-- ==== Sys2Proof/Laws/Flags.lean ====
section
/-! SUPPORT. The bits of a packed flag word (R25) and which bytes are ALU opcodes (R94). -/

namespace Sys2Proof.Machine

@[simp] theorem flagC_packFlags (c z n p : Bool) : flagC (packFlags c z n p) = c := by
  cases c <;> cases z <;> cases n <;> cases p <;> rfl
@[simp] theorem flagZ_packFlags (c z n p : Bool) : flagZ (packFlags c z n p) = z := by
  cases c <;> cases z <;> cases n <;> cases p <;> rfl
@[simp] theorem flagN_packFlags (c z n p : Bool) : flagN (packFlags c z n p) = n := by
  cases c <;> cases z <;> cases n <;> cases p <;> rfl
@[simp] theorem flagP_packFlags (c z n p : Bool) : flagP (packFlags c z n p) = p := by
  cases c <;> cases z <;> cases n <;> cases p <;> rfl
@[simp] theorem flagReserved_packFlags (c z n p : Bool) : flagReserved (packFlags c z n p) = false := by
  cases c <;> cases z <;> cases n <;> cases p <;> rfl

/-! The single flags (R95 to R98). -/

@[simp] theorem zeroFlag_iff (r : Byte) : zeroFlag r = true ↔ r = 0x00 := by simp [zeroFlag]
@[simp] theorem parityFlag_iff (r : Byte) : parityFlag r = true ↔ onesCount r % 2 = 0 := by simp [parityFlag]
@[simp] theorem aluCarry_add_iff (a b : Byte) : aluCarry .add a b = true ↔ 256 ≤ a.toNat + b.toNat := by
  simp [aluCarry]
@[simp] theorem aluCarry_sub_iff (a b : Byte) : aluCarry .sub a b = true ↔ a.toNat < b.toNat := by simp [aluCarry]
@[simp] theorem aluCarry_xor (a b : Byte) : aluCarry .xor a b = false := rfl
@[simp] theorem aluCarry_and (a b : Byte) : aluCarry .and a b = false := rfl

@[simp] theorem flagC_aluFlagWord (op : AluOp) (a b : Byte) : flagC (aluFlagWord op a b) = aluCarry op a b :=
  flagC_packFlags _ _ _ _
@[simp] theorem flagZ_aluFlagWord (op : AluOp) (a b : Byte) :
    flagZ (aluFlagWord op a b) = zeroFlag (aluResult op a b) := flagZ_packFlags _ _ _ _
@[simp] theorem flagN_aluFlagWord (op : AluOp) (a b : Byte) :
    flagN (aluFlagWord op a b) = negativeFlag (aluResult op a b) := flagN_packFlags _ _ _ _
@[simp] theorem flagP_aluFlagWord (op : AluOp) (a b : Byte) :
    flagP (aluFlagWord op a b) = parityFlag (aluResult op a b) := flagP_packFlags _ _ _ _

/-- The reserved bit of a flag word that the ALU makes is 0. -/
@[simp] theorem flagReserved_aluFlagWord (op : AluOp) (a b : Byte) : flagReserved (aluFlagWord op a b) = false :=
  flagReserved_packFlags _ _ _ _

@[simp] theorem aluOpOf_opcode (op : AluOp) : aluOpOf op.opcode = some op := by cases op <;> rfl

theorem opcode_of_aluOpOf {ir : Byte} {op : AluOp} (h : aluOpOf ir = some op) : ir = op.opcode := by
  unfold aluOpOf at h
  apply BitVec.eq_of_toNat_eq
  split at h
  all_goals cases h
  all_goals assumption

/-- An ALU opcode is a defined opcode. -/
theorem validOpcode_of_aluOpOf {ir : Byte} {op : AluOp} (h : aluOpOf ir = some op) : validOpcode ir = true := by
  rw [opcode_of_aluOpOf h]; cases op <;> rfl

end Sys2Proof.Machine
end

