-- ==== Sys2Proof/Laws/Memory.lean ====
section
/-! SUPPORT. What reading and writing memory do: the read-over-write laws, the canonical form, and that canonical
memories
that read alike are equal. -/

namespace Sys2Proof.Machine

@[simp] theorem Memory.readAt_nil (addr : Nat) : Memory.readAt [] addr = Memory.unlisted := rfl

theorem Memory.readAt_erase (m : Memory) (addr other : Nat) :
    (m.erase addr).readAt other = if other = addr then Memory.unlisted else m.readAt other := by
  induction m with
  | nil => simp [Memory.erase]
  | cons cell rest ih =>
    obtain ⟨key, value⟩ := cell
    unfold Memory.erase at ih ⊢
    by_cases hkey : key = addr
    · subst hkey
      simp only [List.filter_cons, bne_self_eq_false, Bool.false_eq_true, if_false, ih, Memory.readAt]
      split <;> simp_all [eq_comm]
    · simp only [List.filter_cons, bne_iff_ne, ne_eq, hkey, not_false_eq_true, if_true, Memory.readAt, ih]
      split <;> simp_all

theorem Memory.readAt_insert (m : Memory) (addr other : Nat) (value : Byte)
    (habsent : ∀ cell ∈ m, cell.1 ≠ addr) :
    (m.insert addr value).readAt other = if other = addr then value else m.readAt other := by
  induction m with
  | nil => simp [Memory.insert, Memory.readAt, eq_comm]
  | cons cell rest ih =>
    obtain ⟨key, old⟩ := cell
    have hkey : key ≠ addr := habsent (key, old) (by simp)
    have ih := ih fun c hc => habsent c (by simp [hc])
    simp only [Memory.insert]
    split
    · simp [Memory.readAt, eq_comm]
    · simp only [Memory.readAt, ih]
      by_cases ho : other = addr
      · simp [ho, hkey]
      · simp [ho]

theorem Memory.absent_erase (m : Memory) (addr : Nat) : ∀ cell ∈ m.erase addr, cell.1 ≠ addr := by
  intro cell hcell
  simpa using (List.mem_filter.mp hcell).2

/-- A read after a write: the written value at that address, the old one at every other. It holds of every list of
cells. -/
theorem Memory.readAt_writeAt (m : Memory) (addr other : Nat) (value : Byte) :
    (m.writeAt addr value).readAt other = if other = addr then value else m.readAt other := by
  unfold Memory.writeAt
  split
  · next h => rw [Memory.readAt_erase, h]
  · rw [Memory.readAt_insert _ _ _ _ (Memory.absent_erase m addr), Memory.readAt_erase]
    split <;> simp_all

/-- A read after a write, at byte addresses. -/
theorem Memory.read_write (m : Memory) (addr other value : Byte) :
    (m.write addr value).read other = if other = addr then value else m.read other := by
  simp [Memory.read, Memory.write, Memory.readAt_writeAt, BitVec.toNat_inj]

@[simp] theorem Memory.read_write_same (m : Memory) (addr value : Byte) :
    (m.write addr value).read addr = value := by
  simp [Memory.read_write]

theorem Memory.read_write_other (m : Memory) (addr other value : Byte) (h : other ≠ addr) :
    (m.write addr value).read other = m.read other := by
  simp [Memory.read_write, h]

/-! The canonical form. -/

theorem Memory.wfFrom_cons (low key : Nat) (value : Byte) (rest : Memory) :
    Memory.wfFrom low ((key, value) :: rest) = true ↔
      low ≤ key ∧ key < 256 ∧ value ≠ Memory.unlisted ∧ Memory.wfFrom (key + 1) rest = true := by
  simp [Memory.wfFrom, and_assoc]

theorem Memory.wfFrom_mono {low low' : Nat} (h : low' ≤ low) {m : Memory} (hm : m.wfFrom low = true) :
    m.wfFrom low' = true := by
  cases m with
  | nil => rfl
  | cons cell rest =>
    obtain ⟨key, value⟩ := cell
    rw [Memory.wfFrom_cons] at hm ⊢
    exact ⟨h.trans hm.1, hm.2⟩

theorem Memory.wfFrom_erase {m : Memory} (addr : Nat) : ∀ {low : Nat}, m.wfFrom low = true →
    (m.erase addr).wfFrom low = true := by
  induction m with
  | nil => intro _ _; rfl
  | cons cell rest ih =>
    obtain ⟨key, value⟩ := cell
    intro low hm
    rw [Memory.wfFrom_cons] at hm
    unfold Memory.erase at ih ⊢
    rw [List.filter_cons]
    split
    · rw [Memory.wfFrom_cons]
      exact ⟨hm.1, hm.2.1, hm.2.2.1, ih hm.2.2.2⟩
    · exact Memory.wfFrom_mono (by omega) (ih hm.2.2.2)

theorem Memory.wfFrom_insert {m : Memory} {addr : Nat} {value : Byte} (haddr : addr < 256)
    (hvalue : value ≠ Memory.unlisted) : ∀ {low : Nat}, low ≤ addr → (∀ cell ∈ m, cell.1 ≠ addr) →
    m.wfFrom low = true → (m.insert addr value).wfFrom low = true := by
  induction m with
  | nil =>
    intro low hlow _ _
    simpa [Memory.insert, Memory.wfFrom] using ⟨⟨hlow, haddr⟩, hvalue⟩
  | cons cell rest ih =>
    obtain ⟨key, old⟩ := cell
    intro low hlow habsent hm
    have hkey : key ≠ addr := habsent (key, old) (by simp)
    rw [Memory.wfFrom_cons] at hm
    simp only [Memory.insert]
    split
    · rw [Memory.wfFrom_cons, Memory.wfFrom_cons]
      exact ⟨hlow, haddr, hvalue, by omega, hm.2⟩
    · rw [Memory.wfFrom_cons]
      exact ⟨hm.1, hm.2.1, hm.2.2.1, ih (by omega) (fun c hc => habsent c (by simp [hc])) hm.2.2.2⟩

/-- A write at an address below 256 keeps the canonical form. -/
theorem Memory.wf_writeAt {m : Memory} {addr : Nat} (value : Byte) (haddr : addr < 256) (hm : m.wf = true) :
    (m.writeAt addr value).wf = true := by
  unfold Memory.writeAt Memory.wf at *
  split
  · exact Memory.wfFrom_erase addr hm
  · next h =>
    exact Memory.wfFrom_insert haddr h (Nat.zero_le _) (Memory.absent_erase m addr) (Memory.wfFrom_erase addr hm)

/-- Every write of the machine keeps the canonical form: its address is a byte. -/
theorem Memory.wf_write {m : Memory} (addr value : Byte) (hm : m.wf = true) : (m.write addr value).wf = true :=
  Memory.wf_writeAt value addr.isLt hm

/-- Storing an image that fits below 256 keeps the canonical form. -/
theorem Memory.wf_writeList {image : List Byte} : ∀ {m : Memory} {addr : Nat}, addr + image.length ≤ 256 →
    m.wf = true → (m.writeList addr image).wf = true := by
  induction image with
  | nil => intro m addr _ hm; exact hm
  | cons value rest ih =>
    intro m addr hlen hm
    simp only [List.length_cons] at hlen
    exact ih (by omega) (Memory.wf_writeAt value (by omega) hm)

/-- What each address reads after an image is stored from `addr` on. -/
theorem Memory.readAt_writeList {image : List Byte} : ∀ (m : Memory) (addr other : Nat),
    (m.writeList addr image).readAt other =
      if addr ≤ other ∧ other < addr + image.length then image.getD (other - addr) 0 else m.readAt other := by
  induction image with
  | nil => intro m addr other; simp [Memory.writeList]
  | cons value rest ih =>
    intro m addr other
    simp only [Memory.writeList, ih, Memory.readAt_writeAt, List.length_cons]
    by_cases h : other = addr
    · simp [h]
    · by_cases h' : addr + 1 ≤ other ∧ other < addr + 1 + rest.length
      · have hsub : other - addr = (other - (addr + 1)) + 1 := by omega
        rw [if_pos h', if_pos (by omega), hsub, List.getD_cons_succ]
      · rw [if_neg h', if_neg h, if_neg (by omega)]

/-- An address below the first entry of a canonical list is unlisted. -/
theorem Memory.readAt_of_lt {m : Memory} : ∀ {low addr : Nat}, m.wfFrom low = true → addr < low →
    m.readAt addr = Memory.unlisted := by
  induction m with
  | nil => intro _ _ _ _; rfl
  | cons cell rest ih =>
    obtain ⟨key, value⟩ := cell
    intro low addr hm hlt
    rw [Memory.wfFrom_cons] at hm
    simp only [Memory.readAt]
    rw [if_neg (by omega), ih hm.2.2.2 (by omega)]

theorem Memory.eq_of_readAt_from {m n : Memory} : ∀ {low : Nat}, m.wfFrom low = true → n.wfFrom low = true →
    (∀ addr, m.readAt addr = n.readAt addr) → m = n := by
  induction m generalizing n with
  | nil =>
    intro low _ hn h
    cases n with
    | nil => rfl
    | cons cell rest =>
      obtain ⟨key, value⟩ := cell
      rw [Memory.wfFrom_cons] at hn
      have := h key
      simp only [Memory.readAt, if_true] at this
      exact absurd this.symm hn.2.2.1
  | cons cell rest ih =>
    obtain ⟨key, value⟩ := cell
    intro low hm hn h
    rw [Memory.wfFrom_cons] at hm
    cases n with
    | nil =>
      have := h key
      simp only [Memory.readAt, if_true] at this
      exact absurd this hm.2.2.1
    | cons cell' rest' =>
      obtain ⟨key', value'⟩ := cell'
      rw [Memory.wfFrom_cons] at hn
      have hkey : key = key' := by
        rcases Nat.lt_trichotomy key key' with hlt | heq | hgt
        · have := h key
          simp only [Memory.readAt, if_true] at this
          rw [if_neg (by omega), Memory.readAt_of_lt hn.2.2.2 (by omega)] at this
          exact absurd this hm.2.2.1
        · exact heq
        · have := h key'
          simp only [Memory.readAt, if_true] at this
          rw [if_neg (by omega), Memory.readAt_of_lt hm.2.2.2 (by omega)] at this
          exact absurd this.symm hn.2.2.1
      subst hkey
      have hvalue : value = value' := by simpa [Memory.readAt] using h key
      subst hvalue
      rw [ih hm.2.2.2 hn.2.2.2 fun addr => ?_]
      by_cases ha : addr = key
      · rw [ha, Memory.readAt_of_lt hm.2.2.2 (by omega), Memory.readAt_of_lt hn.2.2.2 (by omega)]
      · simpa [Memory.readAt, Ne.symm ha] using h addr

/-- Canonical memories that read alike everywhere are equal data. -/
theorem Memory.eq_of_readAt {m n : Memory} (hm : m.wf = true) (hn : n.wf = true)
    (h : ∀ addr, m.readAt addr = n.readAt addr) : m = n :=
  Memory.eq_of_readAt_from hm hn h

end Sys2Proof.Machine
end

