-- ==== Sys2Proof/Laws/State.lean ====
section
/-! SUPPORT. The small lemmas of `State`: each field after each register write, true by rfl. -/

namespace Sys2Proof.Machine

variable (s : State)

/-! `setA` -/
@[simp] theorem State.setA_cfg (v : Byte) : (s.setA v).cfg = s.cfg := rfl
@[simp] theorem State.setA_a (v : Byte) : (s.setA v).a = v := rfl
@[simp] theorem State.setA_b (v : Byte) : (s.setA v).b = s.b := rfl
@[simp] theorem State.setA_pc (v : Byte) : (s.setA v).pc = s.pc := rfl
@[simp] theorem State.setA_mar (v : Byte) : (s.setA v).mar = s.mar := rfl
@[simp] theorem State.setA_mbr (v : Byte) : (s.setA v).mbr = s.mbr := rfl
@[simp] theorem State.setA_ir (v : Byte) : (s.setA v).ir = s.ir := rfl
@[simp] theorem State.setA_stepCtr (v : Byte) : (s.setA v).stepCtr = s.stepCtr := rfl
@[simp] theorem State.setA_flags (v : Byte) : (s.setA v).flags = s.flags := rfl
@[simp] theorem State.setA_aluFlags (v : Byte) : (s.setA v).aluFlags = s.aluFlags := rfl
@[simp] theorem State.setA_alu (v : Byte) : (s.setA v).alu = s.alu := rfl
@[simp] theorem State.setA_sp (v : Byte) : (s.setA v).sp = s.sp := rfl
@[simp] theorem State.setA_halted (v : Byte) : (s.setA v).halted = s.halted := rfl
@[simp] theorem State.setA_fault (v : Byte) : (s.setA v).fault = s.fault := rfl
@[simp] theorem State.setA_output (v : Byte) : (s.setA v).output = s.output := rfl
@[simp] theorem State.setA_mem (v : Byte) : (s.setA v).mem = s.mem := rfl

/-! `setB` -/
@[simp] theorem State.setB_cfg (v : Byte) : (s.setB v).cfg = s.cfg := rfl
@[simp] theorem State.setB_a (v : Byte) : (s.setB v).a = s.a := rfl
@[simp] theorem State.setB_b (v : Byte) : (s.setB v).b = v := rfl
@[simp] theorem State.setB_pc (v : Byte) : (s.setB v).pc = s.pc := rfl
@[simp] theorem State.setB_mar (v : Byte) : (s.setB v).mar = s.mar := rfl
@[simp] theorem State.setB_mbr (v : Byte) : (s.setB v).mbr = s.mbr := rfl
@[simp] theorem State.setB_ir (v : Byte) : (s.setB v).ir = s.ir := rfl
@[simp] theorem State.setB_stepCtr (v : Byte) : (s.setB v).stepCtr = s.stepCtr := rfl
@[simp] theorem State.setB_flags (v : Byte) : (s.setB v).flags = s.flags := rfl
@[simp] theorem State.setB_aluFlags (v : Byte) : (s.setB v).aluFlags = s.aluFlags := rfl
@[simp] theorem State.setB_alu (v : Byte) : (s.setB v).alu = s.alu := rfl
@[simp] theorem State.setB_sp (v : Byte) : (s.setB v).sp = s.sp := rfl
@[simp] theorem State.setB_halted (v : Byte) : (s.setB v).halted = s.halted := rfl
@[simp] theorem State.setB_fault (v : Byte) : (s.setB v).fault = s.fault := rfl
@[simp] theorem State.setB_output (v : Byte) : (s.setB v).output = s.output := rfl
@[simp] theorem State.setB_mem (v : Byte) : (s.setB v).mem = s.mem := rfl

/-! `setPc` -/
@[simp] theorem State.setPc_cfg (v : Byte) : (s.setPc v).cfg = s.cfg := rfl
@[simp] theorem State.setPc_a (v : Byte) : (s.setPc v).a = s.a := rfl
@[simp] theorem State.setPc_b (v : Byte) : (s.setPc v).b = s.b := rfl
@[simp] theorem State.setPc_pc (v : Byte) : (s.setPc v).pc = v := rfl
@[simp] theorem State.setPc_mar (v : Byte) : (s.setPc v).mar = s.mar := rfl
@[simp] theorem State.setPc_mbr (v : Byte) : (s.setPc v).mbr = s.mbr := rfl
@[simp] theorem State.setPc_ir (v : Byte) : (s.setPc v).ir = s.ir := rfl
@[simp] theorem State.setPc_stepCtr (v : Byte) : (s.setPc v).stepCtr = s.stepCtr := rfl
@[simp] theorem State.setPc_flags (v : Byte) : (s.setPc v).flags = s.flags := rfl
@[simp] theorem State.setPc_aluFlags (v : Byte) : (s.setPc v).aluFlags = s.aluFlags := rfl
@[simp] theorem State.setPc_alu (v : Byte) : (s.setPc v).alu = s.alu := rfl
@[simp] theorem State.setPc_sp (v : Byte) : (s.setPc v).sp = s.sp := rfl
@[simp] theorem State.setPc_halted (v : Byte) : (s.setPc v).halted = s.halted := rfl
@[simp] theorem State.setPc_fault (v : Byte) : (s.setPc v).fault = s.fault := rfl
@[simp] theorem State.setPc_output (v : Byte) : (s.setPc v).output = s.output := rfl
@[simp] theorem State.setPc_mem (v : Byte) : (s.setPc v).mem = s.mem := rfl

/-! `setMar` -/
@[simp] theorem State.setMar_cfg (v : Byte) : (s.setMar v).cfg = s.cfg := rfl
@[simp] theorem State.setMar_a (v : Byte) : (s.setMar v).a = s.a := rfl
@[simp] theorem State.setMar_b (v : Byte) : (s.setMar v).b = s.b := rfl
@[simp] theorem State.setMar_pc (v : Byte) : (s.setMar v).pc = s.pc := rfl
@[simp] theorem State.setMar_mar (v : Byte) : (s.setMar v).mar = v := rfl
@[simp] theorem State.setMar_mbr (v : Byte) : (s.setMar v).mbr = s.mbr := rfl
@[simp] theorem State.setMar_ir (v : Byte) : (s.setMar v).ir = s.ir := rfl
@[simp] theorem State.setMar_stepCtr (v : Byte) : (s.setMar v).stepCtr = s.stepCtr := rfl
@[simp] theorem State.setMar_flags (v : Byte) : (s.setMar v).flags = s.flags := rfl
@[simp] theorem State.setMar_aluFlags (v : Byte) : (s.setMar v).aluFlags = s.aluFlags := rfl
@[simp] theorem State.setMar_alu (v : Byte) : (s.setMar v).alu = s.alu := rfl
@[simp] theorem State.setMar_sp (v : Byte) : (s.setMar v).sp = s.sp := rfl
@[simp] theorem State.setMar_halted (v : Byte) : (s.setMar v).halted = s.halted := rfl
@[simp] theorem State.setMar_fault (v : Byte) : (s.setMar v).fault = s.fault := rfl
@[simp] theorem State.setMar_output (v : Byte) : (s.setMar v).output = s.output := rfl
@[simp] theorem State.setMar_mem (v : Byte) : (s.setMar v).mem = s.mem := rfl

/-! `setMbr` -/
@[simp] theorem State.setMbr_cfg (v : Byte) : (s.setMbr v).cfg = s.cfg := rfl
@[simp] theorem State.setMbr_a (v : Byte) : (s.setMbr v).a = s.a := rfl
@[simp] theorem State.setMbr_b (v : Byte) : (s.setMbr v).b = s.b := rfl
@[simp] theorem State.setMbr_pc (v : Byte) : (s.setMbr v).pc = s.pc := rfl
@[simp] theorem State.setMbr_mar (v : Byte) : (s.setMbr v).mar = s.mar := rfl
@[simp] theorem State.setMbr_mbr (v : Byte) : (s.setMbr v).mbr = v := rfl
@[simp] theorem State.setMbr_ir (v : Byte) : (s.setMbr v).ir = s.ir := rfl
@[simp] theorem State.setMbr_stepCtr (v : Byte) : (s.setMbr v).stepCtr = s.stepCtr := rfl
@[simp] theorem State.setMbr_flags (v : Byte) : (s.setMbr v).flags = s.flags := rfl
@[simp] theorem State.setMbr_aluFlags (v : Byte) : (s.setMbr v).aluFlags = s.aluFlags := rfl
@[simp] theorem State.setMbr_alu (v : Byte) : (s.setMbr v).alu = s.alu := rfl
@[simp] theorem State.setMbr_sp (v : Byte) : (s.setMbr v).sp = s.sp := rfl
@[simp] theorem State.setMbr_halted (v : Byte) : (s.setMbr v).halted = s.halted := rfl
@[simp] theorem State.setMbr_fault (v : Byte) : (s.setMbr v).fault = s.fault := rfl
@[simp] theorem State.setMbr_output (v : Byte) : (s.setMbr v).output = s.output := rfl
@[simp] theorem State.setMbr_mem (v : Byte) : (s.setMbr v).mem = s.mem := rfl

/-! `setIr` -/
@[simp] theorem State.setIr_cfg (v : Byte) : (s.setIr v).cfg = s.cfg := rfl
@[simp] theorem State.setIr_a (v : Byte) : (s.setIr v).a = s.a := rfl
@[simp] theorem State.setIr_b (v : Byte) : (s.setIr v).b = s.b := rfl
@[simp] theorem State.setIr_pc (v : Byte) : (s.setIr v).pc = s.pc := rfl
@[simp] theorem State.setIr_mar (v : Byte) : (s.setIr v).mar = s.mar := rfl
@[simp] theorem State.setIr_mbr (v : Byte) : (s.setIr v).mbr = s.mbr := rfl
@[simp] theorem State.setIr_ir (v : Byte) : (s.setIr v).ir = v := rfl
@[simp] theorem State.setIr_stepCtr (v : Byte) : (s.setIr v).stepCtr = s.stepCtr := rfl
@[simp] theorem State.setIr_flags (v : Byte) : (s.setIr v).flags = s.flags := rfl
@[simp] theorem State.setIr_aluFlags (v : Byte) : (s.setIr v).aluFlags = s.aluFlags := rfl
@[simp] theorem State.setIr_alu (v : Byte) : (s.setIr v).alu = s.alu := rfl
@[simp] theorem State.setIr_sp (v : Byte) : (s.setIr v).sp = s.sp := rfl
@[simp] theorem State.setIr_halted (v : Byte) : (s.setIr v).halted = s.halted := rfl
@[simp] theorem State.setIr_fault (v : Byte) : (s.setIr v).fault = s.fault := rfl
@[simp] theorem State.setIr_output (v : Byte) : (s.setIr v).output = s.output := rfl
@[simp] theorem State.setIr_mem (v : Byte) : (s.setIr v).mem = s.mem := rfl

/-! `setStepCtr` -/
@[simp] theorem State.setStepCtr_cfg (v : Nat) : (s.setStepCtr v).cfg = s.cfg := rfl
@[simp] theorem State.setStepCtr_a (v : Nat) : (s.setStepCtr v).a = s.a := rfl
@[simp] theorem State.setStepCtr_b (v : Nat) : (s.setStepCtr v).b = s.b := rfl
@[simp] theorem State.setStepCtr_pc (v : Nat) : (s.setStepCtr v).pc = s.pc := rfl
@[simp] theorem State.setStepCtr_mar (v : Nat) : (s.setStepCtr v).mar = s.mar := rfl
@[simp] theorem State.setStepCtr_mbr (v : Nat) : (s.setStepCtr v).mbr = s.mbr := rfl
@[simp] theorem State.setStepCtr_ir (v : Nat) : (s.setStepCtr v).ir = s.ir := rfl
@[simp] theorem State.setStepCtr_stepCtr (v : Nat) : (s.setStepCtr v).stepCtr = v := rfl
@[simp] theorem State.setStepCtr_flags (v : Nat) : (s.setStepCtr v).flags = s.flags := rfl
@[simp] theorem State.setStepCtr_aluFlags (v : Nat) : (s.setStepCtr v).aluFlags = s.aluFlags := rfl
@[simp] theorem State.setStepCtr_alu (v : Nat) : (s.setStepCtr v).alu = s.alu := rfl
@[simp] theorem State.setStepCtr_sp (v : Nat) : (s.setStepCtr v).sp = s.sp := rfl
@[simp] theorem State.setStepCtr_halted (v : Nat) : (s.setStepCtr v).halted = s.halted := rfl
@[simp] theorem State.setStepCtr_fault (v : Nat) : (s.setStepCtr v).fault = s.fault := rfl
@[simp] theorem State.setStepCtr_output (v : Nat) : (s.setStepCtr v).output = s.output := rfl
@[simp] theorem State.setStepCtr_mem (v : Nat) : (s.setStepCtr v).mem = s.mem := rfl

/-! `setFlags` -/
@[simp] theorem State.setFlags_cfg (v : FlagWord) : (s.setFlags v).cfg = s.cfg := rfl
@[simp] theorem State.setFlags_a (v : FlagWord) : (s.setFlags v).a = s.a := rfl
@[simp] theorem State.setFlags_b (v : FlagWord) : (s.setFlags v).b = s.b := rfl
@[simp] theorem State.setFlags_pc (v : FlagWord) : (s.setFlags v).pc = s.pc := rfl
@[simp] theorem State.setFlags_mar (v : FlagWord) : (s.setFlags v).mar = s.mar := rfl
@[simp] theorem State.setFlags_mbr (v : FlagWord) : (s.setFlags v).mbr = s.mbr := rfl
@[simp] theorem State.setFlags_ir (v : FlagWord) : (s.setFlags v).ir = s.ir := rfl
@[simp] theorem State.setFlags_stepCtr (v : FlagWord) : (s.setFlags v).stepCtr = s.stepCtr := rfl
@[simp] theorem State.setFlags_flags (v : FlagWord) : (s.setFlags v).flags = v := rfl
@[simp] theorem State.setFlags_aluFlags (v : FlagWord) : (s.setFlags v).aluFlags = s.aluFlags := rfl
@[simp] theorem State.setFlags_alu (v : FlagWord) : (s.setFlags v).alu = s.alu := rfl
@[simp] theorem State.setFlags_sp (v : FlagWord) : (s.setFlags v).sp = s.sp := rfl
@[simp] theorem State.setFlags_halted (v : FlagWord) : (s.setFlags v).halted = s.halted := rfl
@[simp] theorem State.setFlags_fault (v : FlagWord) : (s.setFlags v).fault = s.fault := rfl
@[simp] theorem State.setFlags_output (v : FlagWord) : (s.setFlags v).output = s.output := rfl
@[simp] theorem State.setFlags_mem (v : FlagWord) : (s.setFlags v).mem = s.mem := rfl

/-! `setAluFlags` -/
@[simp] theorem State.setAluFlags_cfg (v : FlagWord) : (s.setAluFlags v).cfg = s.cfg := rfl
@[simp] theorem State.setAluFlags_a (v : FlagWord) : (s.setAluFlags v).a = s.a := rfl
@[simp] theorem State.setAluFlags_b (v : FlagWord) : (s.setAluFlags v).b = s.b := rfl
@[simp] theorem State.setAluFlags_pc (v : FlagWord) : (s.setAluFlags v).pc = s.pc := rfl
@[simp] theorem State.setAluFlags_mar (v : FlagWord) : (s.setAluFlags v).mar = s.mar := rfl
@[simp] theorem State.setAluFlags_mbr (v : FlagWord) : (s.setAluFlags v).mbr = s.mbr := rfl
@[simp] theorem State.setAluFlags_ir (v : FlagWord) : (s.setAluFlags v).ir = s.ir := rfl
@[simp] theorem State.setAluFlags_stepCtr (v : FlagWord) : (s.setAluFlags v).stepCtr = s.stepCtr := rfl
@[simp] theorem State.setAluFlags_flags (v : FlagWord) : (s.setAluFlags v).flags = s.flags := rfl
@[simp] theorem State.setAluFlags_aluFlags (v : FlagWord) : (s.setAluFlags v).aluFlags = v := rfl
@[simp] theorem State.setAluFlags_alu (v : FlagWord) : (s.setAluFlags v).alu = s.alu := rfl
@[simp] theorem State.setAluFlags_sp (v : FlagWord) : (s.setAluFlags v).sp = s.sp := rfl
@[simp] theorem State.setAluFlags_halted (v : FlagWord) : (s.setAluFlags v).halted = s.halted := rfl
@[simp] theorem State.setAluFlags_fault (v : FlagWord) : (s.setAluFlags v).fault = s.fault := rfl
@[simp] theorem State.setAluFlags_output (v : FlagWord) : (s.setAluFlags v).output = s.output := rfl
@[simp] theorem State.setAluFlags_mem (v : FlagWord) : (s.setAluFlags v).mem = s.mem := rfl

/-! `setAlu` -/
@[simp] theorem State.setAlu_cfg (v : Byte) : (s.setAlu v).cfg = s.cfg := rfl
@[simp] theorem State.setAlu_a (v : Byte) : (s.setAlu v).a = s.a := rfl
@[simp] theorem State.setAlu_b (v : Byte) : (s.setAlu v).b = s.b := rfl
@[simp] theorem State.setAlu_pc (v : Byte) : (s.setAlu v).pc = s.pc := rfl
@[simp] theorem State.setAlu_mar (v : Byte) : (s.setAlu v).mar = s.mar := rfl
@[simp] theorem State.setAlu_mbr (v : Byte) : (s.setAlu v).mbr = s.mbr := rfl
@[simp] theorem State.setAlu_ir (v : Byte) : (s.setAlu v).ir = s.ir := rfl
@[simp] theorem State.setAlu_stepCtr (v : Byte) : (s.setAlu v).stepCtr = s.stepCtr := rfl
@[simp] theorem State.setAlu_flags (v : Byte) : (s.setAlu v).flags = s.flags := rfl
@[simp] theorem State.setAlu_aluFlags (v : Byte) : (s.setAlu v).aluFlags = s.aluFlags := rfl
@[simp] theorem State.setAlu_alu (v : Byte) : (s.setAlu v).alu = v := rfl
@[simp] theorem State.setAlu_sp (v : Byte) : (s.setAlu v).sp = s.sp := rfl
@[simp] theorem State.setAlu_halted (v : Byte) : (s.setAlu v).halted = s.halted := rfl
@[simp] theorem State.setAlu_fault (v : Byte) : (s.setAlu v).fault = s.fault := rfl
@[simp] theorem State.setAlu_output (v : Byte) : (s.setAlu v).output = s.output := rfl
@[simp] theorem State.setAlu_mem (v : Byte) : (s.setAlu v).mem = s.mem := rfl

/-! `setSp` -/
@[simp] theorem State.setSp_cfg (v : Nat) : (s.setSp v).cfg = s.cfg := rfl
@[simp] theorem State.setSp_a (v : Nat) : (s.setSp v).a = s.a := rfl
@[simp] theorem State.setSp_b (v : Nat) : (s.setSp v).b = s.b := rfl
@[simp] theorem State.setSp_pc (v : Nat) : (s.setSp v).pc = s.pc := rfl
@[simp] theorem State.setSp_mar (v : Nat) : (s.setSp v).mar = s.mar := rfl
@[simp] theorem State.setSp_mbr (v : Nat) : (s.setSp v).mbr = s.mbr := rfl
@[simp] theorem State.setSp_ir (v : Nat) : (s.setSp v).ir = s.ir := rfl
@[simp] theorem State.setSp_stepCtr (v : Nat) : (s.setSp v).stepCtr = s.stepCtr := rfl
@[simp] theorem State.setSp_flags (v : Nat) : (s.setSp v).flags = s.flags := rfl
@[simp] theorem State.setSp_aluFlags (v : Nat) : (s.setSp v).aluFlags = s.aluFlags := rfl
@[simp] theorem State.setSp_alu (v : Nat) : (s.setSp v).alu = s.alu := rfl
@[simp] theorem State.setSp_sp (v : Nat) : (s.setSp v).sp = v := rfl
@[simp] theorem State.setSp_halted (v : Nat) : (s.setSp v).halted = s.halted := rfl
@[simp] theorem State.setSp_fault (v : Nat) : (s.setSp v).fault = s.fault := rfl
@[simp] theorem State.setSp_output (v : Nat) : (s.setSp v).output = s.output := rfl
@[simp] theorem State.setSp_mem (v : Nat) : (s.setSp v).mem = s.mem := rfl

/-! `setHalted` -/
@[simp] theorem State.setHalted_cfg (v : Bool) : (s.setHalted v).cfg = s.cfg := rfl
@[simp] theorem State.setHalted_a (v : Bool) : (s.setHalted v).a = s.a := rfl
@[simp] theorem State.setHalted_b (v : Bool) : (s.setHalted v).b = s.b := rfl
@[simp] theorem State.setHalted_pc (v : Bool) : (s.setHalted v).pc = s.pc := rfl
@[simp] theorem State.setHalted_mar (v : Bool) : (s.setHalted v).mar = s.mar := rfl
@[simp] theorem State.setHalted_mbr (v : Bool) : (s.setHalted v).mbr = s.mbr := rfl
@[simp] theorem State.setHalted_ir (v : Bool) : (s.setHalted v).ir = s.ir := rfl
@[simp] theorem State.setHalted_stepCtr (v : Bool) : (s.setHalted v).stepCtr = s.stepCtr := rfl
@[simp] theorem State.setHalted_flags (v : Bool) : (s.setHalted v).flags = s.flags := rfl
@[simp] theorem State.setHalted_aluFlags (v : Bool) : (s.setHalted v).aluFlags = s.aluFlags := rfl
@[simp] theorem State.setHalted_alu (v : Bool) : (s.setHalted v).alu = s.alu := rfl
@[simp] theorem State.setHalted_sp (v : Bool) : (s.setHalted v).sp = s.sp := rfl
@[simp] theorem State.setHalted_halted (v : Bool) : (s.setHalted v).halted = v := rfl
@[simp] theorem State.setHalted_fault (v : Bool) : (s.setHalted v).fault = s.fault := rfl
@[simp] theorem State.setHalted_output (v : Bool) : (s.setHalted v).output = s.output := rfl
@[simp] theorem State.setHalted_mem (v : Bool) : (s.setHalted v).mem = s.mem := rfl

/-! `setFault` -/
@[simp] theorem State.setFault_cfg (v : Option Fault) : (s.setFault v).cfg = s.cfg := rfl
@[simp] theorem State.setFault_a (v : Option Fault) : (s.setFault v).a = s.a := rfl
@[simp] theorem State.setFault_b (v : Option Fault) : (s.setFault v).b = s.b := rfl
@[simp] theorem State.setFault_pc (v : Option Fault) : (s.setFault v).pc = s.pc := rfl
@[simp] theorem State.setFault_mar (v : Option Fault) : (s.setFault v).mar = s.mar := rfl
@[simp] theorem State.setFault_mbr (v : Option Fault) : (s.setFault v).mbr = s.mbr := rfl
@[simp] theorem State.setFault_ir (v : Option Fault) : (s.setFault v).ir = s.ir := rfl
@[simp] theorem State.setFault_stepCtr (v : Option Fault) : (s.setFault v).stepCtr = s.stepCtr := rfl
@[simp] theorem State.setFault_flags (v : Option Fault) : (s.setFault v).flags = s.flags := rfl
@[simp] theorem State.setFault_aluFlags (v : Option Fault) : (s.setFault v).aluFlags = s.aluFlags := rfl
@[simp] theorem State.setFault_alu (v : Option Fault) : (s.setFault v).alu = s.alu := rfl
@[simp] theorem State.setFault_sp (v : Option Fault) : (s.setFault v).sp = s.sp := rfl
@[simp] theorem State.setFault_halted (v : Option Fault) : (s.setFault v).halted = s.halted := rfl
@[simp] theorem State.setFault_fault (v : Option Fault) : (s.setFault v).fault = v := rfl
@[simp] theorem State.setFault_output (v : Option Fault) : (s.setFault v).output = s.output := rfl
@[simp] theorem State.setFault_mem (v : Option Fault) : (s.setFault v).mem = s.mem := rfl

/-! `setOutput` -/
@[simp] theorem State.setOutput_cfg (v : List Byte) : (s.setOutput v).cfg = s.cfg := rfl
@[simp] theorem State.setOutput_a (v : List Byte) : (s.setOutput v).a = s.a := rfl
@[simp] theorem State.setOutput_b (v : List Byte) : (s.setOutput v).b = s.b := rfl
@[simp] theorem State.setOutput_pc (v : List Byte) : (s.setOutput v).pc = s.pc := rfl
@[simp] theorem State.setOutput_mar (v : List Byte) : (s.setOutput v).mar = s.mar := rfl
@[simp] theorem State.setOutput_mbr (v : List Byte) : (s.setOutput v).mbr = s.mbr := rfl
@[simp] theorem State.setOutput_ir (v : List Byte) : (s.setOutput v).ir = s.ir := rfl
@[simp] theorem State.setOutput_stepCtr (v : List Byte) : (s.setOutput v).stepCtr = s.stepCtr := rfl
@[simp] theorem State.setOutput_flags (v : List Byte) : (s.setOutput v).flags = s.flags := rfl
@[simp] theorem State.setOutput_aluFlags (v : List Byte) : (s.setOutput v).aluFlags = s.aluFlags := rfl
@[simp] theorem State.setOutput_alu (v : List Byte) : (s.setOutput v).alu = s.alu := rfl
@[simp] theorem State.setOutput_sp (v : List Byte) : (s.setOutput v).sp = s.sp := rfl
@[simp] theorem State.setOutput_halted (v : List Byte) : (s.setOutput v).halted = s.halted := rfl
@[simp] theorem State.setOutput_fault (v : List Byte) : (s.setOutput v).fault = s.fault := rfl
@[simp] theorem State.setOutput_output (v : List Byte) : (s.setOutput v).output = v := rfl
@[simp] theorem State.setOutput_mem (v : List Byte) : (s.setOutput v).mem = s.mem := rfl

/-! `setMem` -/
@[simp] theorem State.setMem_cfg (v : Memory) : (s.setMem v).cfg = s.cfg := rfl
@[simp] theorem State.setMem_a (v : Memory) : (s.setMem v).a = s.a := rfl
@[simp] theorem State.setMem_b (v : Memory) : (s.setMem v).b = s.b := rfl
@[simp] theorem State.setMem_pc (v : Memory) : (s.setMem v).pc = s.pc := rfl
@[simp] theorem State.setMem_mar (v : Memory) : (s.setMem v).mar = s.mar := rfl
@[simp] theorem State.setMem_mbr (v : Memory) : (s.setMem v).mbr = s.mbr := rfl
@[simp] theorem State.setMem_ir (v : Memory) : (s.setMem v).ir = s.ir := rfl
@[simp] theorem State.setMem_stepCtr (v : Memory) : (s.setMem v).stepCtr = s.stepCtr := rfl
@[simp] theorem State.setMem_flags (v : Memory) : (s.setMem v).flags = s.flags := rfl
@[simp] theorem State.setMem_aluFlags (v : Memory) : (s.setMem v).aluFlags = s.aluFlags := rfl
@[simp] theorem State.setMem_alu (v : Memory) : (s.setMem v).alu = s.alu := rfl
@[simp] theorem State.setMem_sp (v : Memory) : (s.setMem v).sp = s.sp := rfl
@[simp] theorem State.setMem_halted (v : Memory) : (s.setMem v).halted = s.halted := rfl
@[simp] theorem State.setMem_fault (v : Memory) : (s.setMem v).fault = s.fault := rfl
@[simp] theorem State.setMem_output (v : Memory) : (s.setMem v).output = s.output := rfl
@[simp] theorem State.setMem_mem (v : Memory) : (s.setMem v).mem = v := rfl

/-! A write of the value that is there already, and two writes of one register. -/
@[simp] theorem State.setA_self : s.setA s.a = s := rfl
@[simp] theorem State.setB_self : s.setB s.b = s := rfl
@[simp] theorem State.setPc_self : s.setPc s.pc = s := rfl
@[simp] theorem State.setMar_self : s.setMar s.mar = s := rfl
@[simp] theorem State.setMbr_self : s.setMbr s.mbr = s := rfl
@[simp] theorem State.setIr_self : s.setIr s.ir = s := rfl
@[simp] theorem State.setStepCtr_self : s.setStepCtr s.stepCtr = s := rfl
@[simp] theorem State.setFlags_self : s.setFlags s.flags = s := rfl
@[simp] theorem State.setAluFlags_self : s.setAluFlags s.aluFlags = s := rfl
@[simp] theorem State.setAlu_self : s.setAlu s.alu = s := rfl
@[simp] theorem State.setSp_self : s.setSp s.sp = s := rfl
@[simp] theorem State.setHalted_self : s.setHalted s.halted = s := rfl
@[simp] theorem State.setFault_self : s.setFault s.fault = s := rfl
@[simp] theorem State.setOutput_self : s.setOutput s.output = s := rfl
@[simp] theorem State.setMem_self : s.setMem s.mem = s := rfl
@[simp] theorem State.setA_setA (v w : Byte) : (s.setA v).setA w = s.setA w := rfl
@[simp] theorem State.setB_setB (v w : Byte) : (s.setB v).setB w = s.setB w := rfl
@[simp] theorem State.setPc_setPc (v w : Byte) : (s.setPc v).setPc w = s.setPc w := rfl
@[simp] theorem State.setMar_setMar (v w : Byte) : (s.setMar v).setMar w = s.setMar w := rfl
@[simp] theorem State.setMbr_setMbr (v w : Byte) : (s.setMbr v).setMbr w = s.setMbr w := rfl
@[simp] theorem State.setIr_setIr (v w : Byte) : (s.setIr v).setIr w = s.setIr w := rfl
@[simp] theorem State.setStepCtr_setStepCtr (v w : Nat) : (s.setStepCtr v).setStepCtr w = s.setStepCtr w := rfl
@[simp] theorem State.setFlags_setFlags (v w : FlagWord) : (s.setFlags v).setFlags w = s.setFlags w := rfl
@[simp] theorem State.setAluFlags_setAluFlags (v w : FlagWord) : (s.setAluFlags v).setAluFlags w = s.setAluFlags w := rfl
@[simp] theorem State.setAlu_setAlu (v w : Byte) : (s.setAlu v).setAlu w = s.setAlu w := rfl
@[simp] theorem State.setSp_setSp (v w : Nat) : (s.setSp v).setSp w = s.setSp w := rfl
@[simp] theorem State.setHalted_setHalted (v w : Bool) : (s.setHalted v).setHalted w = s.setHalted w := rfl
@[simp] theorem State.setFault_setFault (v w : Option Fault) : (s.setFault v).setFault w = s.setFault w := rfl
@[simp] theorem State.setOutput_setOutput (v w : List Byte) : (s.setOutput v).setOutput w = s.setOutput w := rfl
@[simp] theorem State.setMem_setMem (v w : Memory) : (s.setMem v).setMem w = s.setMem w := rfl

/-- Two states that agree in every field are one state. -/
theorem State.eq_of_fields {s t : State} (hcfg : s.cfg = t.cfg) (ha : s.a = t.a) (hb : s.b = t.b) (hpc : s.pc = t.pc)
    (hmar : s.mar = t.mar) (hmbr : s.mbr = t.mbr) (hir : s.ir = t.ir) (hstep : s.stepCtr = t.stepCtr)
    (hflags : s.flags = t.flags) (haluFlags : s.aluFlags = t.aluFlags) (halu : s.alu = t.alu) (hsp : s.sp = t.sp)
    (hhalted : s.halted = t.halted) (hfault : s.fault = t.fault) (houtput : s.output = t.output)
    (hmem : s.mem = t.mem) : s = t := by
  cases s; cases t; simp_all

/-! Raising a fault (R115): one lemma says all it does. -/

/-- A raised fault is recorded, and nothing else changes: `raiseFault` is a write of FAULT, so every lemma of
`setFault` says what the other fields hold. -/
@[simp] theorem raiseFault_eq (record : Fault) : raiseFault record s = s.setFault (some record) := rfl

end Sys2Proof.Machine
end

