-- ==== Sys2Proof/Laws/Tick.lean ====
section
/-! SUPPORT. What the ALU phase and a tick do: the fields the ALU phase keeps, one lemma for each word of the ROM,
and the
cases of a tick. -/

namespace Sys2Proof.Machine

variable (s : State)

/-! The ALU phase (R82). -/

theorem aluPhase_of_none {s : State} (h : aluOpOf s.ir = none) : aluPhase s = s := by simp [aluPhase, h]

/-- All the ALU phase can do: nothing, or a write of the latch and of one flag register. -/
theorem aluPhase_cases : aluPhase s = s ∨ ∃ op, aluOpOf s.ir = some op ∧
    ((s.cfg.flagsMode = .everyAluCycle ∧
        aluPhase s = (s.setAlu (aluResult op s.a s.b)).setFlags (aluFlagWord op s.a s.b)) ∨
      (s.cfg.flagsMode = .atWriteback ∧
        aluPhase s = (s.setAlu (aluResult op s.a s.b)).setAluFlags (aluFlagWord op s.a s.b))) := by
  unfold aluPhase
  split
  · exact .inl rfl
  · next op h =>
    refine .inr ⟨op, h, ?_⟩
    split <;> simp_all

@[simp] theorem aluPhase_cfg : (aluPhase s).cfg = s.cfg := by unfold aluPhase; split <;> [rfl; split <;> rfl]
@[simp] theorem aluPhase_a : (aluPhase s).a = s.a := by unfold aluPhase; split <;> [rfl; split <;> rfl]
@[simp] theorem aluPhase_b : (aluPhase s).b = s.b := by unfold aluPhase; split <;> [rfl; split <;> rfl]
@[simp] theorem aluPhase_pc : (aluPhase s).pc = s.pc := by unfold aluPhase; split <;> [rfl; split <;> rfl]
@[simp] theorem aluPhase_mar : (aluPhase s).mar = s.mar := by unfold aluPhase; split <;> [rfl; split <;> rfl]
@[simp] theorem aluPhase_mbr : (aluPhase s).mbr = s.mbr := by unfold aluPhase; split <;> [rfl; split <;> rfl]
@[simp] theorem aluPhase_ir : (aluPhase s).ir = s.ir := by unfold aluPhase; split <;> [rfl; split <;> rfl]
@[simp] theorem aluPhase_stepCtr : (aluPhase s).stepCtr = s.stepCtr := by
  unfold aluPhase; split <;> [rfl; split <;> rfl]
@[simp] theorem aluPhase_sp : (aluPhase s).sp = s.sp := by unfold aluPhase; split <;> [rfl; split <;> rfl]
@[simp] theorem aluPhase_halted : (aluPhase s).halted = s.halted := by
  unfold aluPhase; split <;> [rfl; split <;> rfl]
@[simp] theorem aluPhase_fault : (aluPhase s).fault = s.fault := by unfold aluPhase; split <;> [rfl; split <;> rfl]
@[simp] theorem aluPhase_output : (aluPhase s).output = s.output := by
  unfold aluPhase; split <;> [rfl; split <;> rfl]
@[simp] theorem aluPhase_mem : (aluPhase s).mem = s.mem := by unfold aluPhase; split <;> [rfl; split <;> rfl]

/-- The ALU phase writes again what it wrote: it reads none of the registers it writes. -/
@[simp] theorem aluPhase_aluPhase : aluPhase (aluPhase s) = aluPhase s := by
  unfold aluPhase
  repeat' split
  all_goals simp_all [State.setAlu, State.setFlags, State.setAluFlags]

theorem aluPhase_setPc (v : Byte) : aluPhase (s.setPc v) = (aluPhase s).setPc v := by
  unfold aluPhase
  simp only [State.setPc_ir, State.setPc_cfg, State.setPc_a, State.setPc_b]
  split <;> [rfl; split <;> rfl]
theorem aluPhase_setMar (v : Byte) : aluPhase (s.setMar v) = (aluPhase s).setMar v := by
  unfold aluPhase
  simp only [State.setMar_ir, State.setMar_cfg, State.setMar_a, State.setMar_b]
  split <;> [rfl; split <;> rfl]
theorem aluPhase_setMbr (v : Byte) : aluPhase (s.setMbr v) = (aluPhase s).setMbr v := by
  unfold aluPhase
  simp only [State.setMbr_ir, State.setMbr_cfg, State.setMbr_a, State.setMbr_b]
  split <;> [rfl; split <;> rfl]
theorem aluPhase_setStepCtr (v : Nat) : aluPhase (s.setStepCtr v) = (aluPhase s).setStepCtr v := by
  unfold aluPhase
  simp only [State.setStepCtr_ir, State.setStepCtr_cfg, State.setStepCtr_a, State.setStepCtr_b]
  split <;> [rfl; split <;> rfl]
theorem aluPhase_setSp (v : Nat) : aluPhase (s.setSp v) = (aluPhase s).setSp v := by
  unfold aluPhase
  simp only [State.setSp_ir, State.setSp_cfg, State.setSp_a, State.setSp_b]
  split <;> [rfl; split <;> rfl]
theorem aluPhase_setHalted (v : Bool) : aluPhase (s.setHalted v) = (aluPhase s).setHalted v := by
  unfold aluPhase
  simp only [State.setHalted_ir, State.setHalted_cfg, State.setHalted_a, State.setHalted_b]
  split <;> [rfl; split <;> rfl]
theorem aluPhase_setFault (v : Option Fault) : aluPhase (s.setFault v) = (aluPhase s).setFault v := by
  unfold aluPhase
  simp only [State.setFault_ir, State.setFault_cfg, State.setFault_a, State.setFault_b]
  split <;> [rfl; split <;> rfl]
theorem aluPhase_setOutput (v : List Byte) : aluPhase (s.setOutput v) = (aluPhase s).setOutput v := by
  unfold aluPhase
  simp only [State.setOutput_ir, State.setOutput_cfg, State.setOutput_a, State.setOutput_b]
  split <;> [rfl; split <;> rfl]
theorem aluPhase_setMem (v : Memory) : aluPhase (s.setMem v) = (aluPhase s).setMem v := by
  unfold aluPhase
  simp only [State.setMem_ir, State.setMem_cfg, State.setMem_a, State.setMem_b]
  split <;> [rfl; split <;> rfl]

/-! What each phase leaves in each field (R75 to R81). -/

section Phases

variable (word : ControlWord) (bus : Byte)

@[simp] theorem busIn_cfg : (busIn word bus s).cfg = s.cfg := rfl
@[simp] theorem busIn_a : (busIn word bus s).a = if asserts word .aIn then bus else s.a := rfl
@[simp] theorem busIn_b : (busIn word bus s).b = if asserts word .bIn then bus else s.b := rfl
@[simp] theorem busIn_pc : (busIn word bus s).pc = if asserts word .pcIn then bus else s.pc := rfl
@[simp] theorem busIn_mar : (busIn word bus s).mar = if asserts word .marIn then bus else s.mar := rfl
@[simp] theorem busIn_mbr : (busIn word bus s).mbr = if asserts word .mbrIn then bus else s.mbr := rfl
@[simp] theorem busIn_ir : (busIn word bus s).ir = if asserts word .irIn then bus else s.ir := rfl
@[simp] theorem busIn_stepCtr : (busIn word bus s).stepCtr = s.stepCtr := rfl
@[simp] theorem busIn_flags : (busIn word bus s).flags =
    if asserts word .aluOut ∧ s.cfg.flagsMode = .atWriteback then s.aluFlags else s.flags := rfl
@[simp] theorem busIn_aluFlags : (busIn word bus s).aluFlags = s.aluFlags := rfl
@[simp] theorem busIn_alu : (busIn word bus s).alu = s.alu := rfl
@[simp] theorem busIn_sp : (busIn word bus s).sp = s.sp := rfl
@[simp] theorem busIn_halted : (busIn word bus s).halted = s.halted := rfl
@[simp] theorem busIn_fault : (busIn word bus s).fault = s.fault := rfl
@[simp] theorem busIn_output : (busIn word bus s).output = s.output := rfl
@[simp] theorem busIn_mem : (busIn word bus s).mem = s.mem := rfl

@[simp] theorem utilities_cfg : (utilities word s).cfg = s.cfg := rfl
@[simp] theorem utilities_a : (utilities word s).a = s.a := rfl
@[simp] theorem utilities_b : (utilities word s).b = s.b := rfl
@[simp] theorem utilities_pc : (utilities word s).pc = if asserts word .pcInc then s.pc + 1 else s.pc := rfl
@[simp] theorem utilities_mar : (utilities word s).mar = s.mar := rfl
@[simp] theorem utilities_mbr : (utilities word s).mbr = s.mbr := rfl
@[simp] theorem utilities_ir : (utilities word s).ir = s.ir := rfl
@[simp] theorem utilities_stepCtr : (utilities word s).stepCtr = nextStep word s.cfg s.stepCtr := rfl
@[simp] theorem utilities_flags : (utilities word s).flags = s.flags := rfl
@[simp] theorem utilities_aluFlags : (utilities word s).aluFlags = s.aluFlags := rfl
@[simp] theorem utilities_alu : (utilities word s).alu = s.alu := rfl
@[simp] theorem utilities_sp : (utilities word s).sp = nextSp word s.cfg s.sp := rfl
@[simp] theorem utilities_halted : (utilities word s).halted = (asserts word .hlt || s.halted) := rfl
@[simp] theorem utilities_fault : (utilities word s).fault = s.fault := rfl
@[simp] theorem utilities_output : (utilities word s).output =
    if asserts word .out then s.output ++ [s.a] else s.output := rfl
@[simp] theorem utilities_mem : (utilities word s).mem = s.mem := rfl

@[simp] theorem memoryPhase_cfg : (memoryPhase word s).cfg = s.cfg := rfl
@[simp] theorem memoryPhase_a : (memoryPhase word s).a = s.a := rfl
@[simp] theorem memoryPhase_b : (memoryPhase word s).b = s.b := rfl
@[simp] theorem memoryPhase_pc : (memoryPhase word s).pc = s.pc := rfl
@[simp] theorem memoryPhase_mar : (memoryPhase word s).mar = s.mar := rfl
@[simp] theorem memoryPhase_mbr : (memoryPhase word s).mbr =
    if asserts word .memWe then s.mbr else s.mem.read s.mar := rfl
@[simp] theorem memoryPhase_ir : (memoryPhase word s).ir = s.ir := rfl
@[simp] theorem memoryPhase_stepCtr : (memoryPhase word s).stepCtr = s.stepCtr := rfl
@[simp] theorem memoryPhase_flags : (memoryPhase word s).flags = s.flags := rfl
@[simp] theorem memoryPhase_aluFlags : (memoryPhase word s).aluFlags = s.aluFlags := rfl
@[simp] theorem memoryPhase_alu : (memoryPhase word s).alu = s.alu := rfl
@[simp] theorem memoryPhase_sp : (memoryPhase word s).sp = s.sp := rfl
@[simp] theorem memoryPhase_halted : (memoryPhase word s).halted = s.halted := rfl
@[simp] theorem memoryPhase_fault : (memoryPhase word s).fault = s.fault := rfl
@[simp] theorem memoryPhase_output : (memoryPhase word s).output = s.output := rfl
@[simp] theorem memoryPhase_mem : (memoryPhase word s).mem =
    if asserts word .memWe then s.mem.write s.mar s.mbr else s.mem := rfl

end Phases

/-! What a tick does under each word of the ROM (R64, R66): the transfers before the ALU phase. -/

/-- One tick of STEP without a reset (R76). -/
def advanced (s : State) : Nat := (s.stepCtr + 1) % s.cfg.nSteps

/-- Without a driver the bus carries 0x00 (R73). -/
theorem tickWord_undriven {word : ControlWord} (h : assertedDrivers word = []) :
    tickWord word s = afterBusOut word 0x00 s := by simp [tickWord, h, busValue]

/-- With one driver the bus carries its value (R73). -/
theorem tickWord_driven {word : ControlWord} {driver : Signal} (h : assertedDrivers word = [driver]) :
    tickWord word s = afterBusOut word (driveValue driver s) s := by simp [tickWord, h, busValue]

theorem tickWord_zero : tickWord 0 s = aluPhase ((s.setMbr (s.mem.read s.mar)).setStepCtr (advanced s)) := by
  rw [tickWord_undriven s (by decide : assertedDrivers 0 = [])]; rfl

theorem tickWord_wordPcToMar : tickWord wordPcToMar s =
    aluPhase (((s.setMar s.pc).setMbr (s.mem.read s.pc)).setStepCtr (advanced s)) := by
  rw [tickWord_driven s (by decide : assertedDrivers wordPcToMar = [.pcOut])]; rfl

theorem tickWord_wordFetchOpcode : tickWord wordFetchOpcode s =
    aluPhase ((((s.setIr s.mbr).setPc (s.pc + 1)).setMbr (s.mem.read s.mar)).setStepCtr (advanced s)) := by
  rw [tickWord_driven s (by decide : assertedDrivers wordFetchOpcode = [.memOut])]; rfl

theorem tickWord_wordNop : tickWord wordNop s = aluPhase ((s.setMbr (s.mem.read s.mar)).setStepCtr 0) := by
  rw [tickWord_undriven s (by decide : assertedDrivers wordNop = [])]; rfl

theorem tickWord_wordHalt : tickWord wordHalt s =
    aluPhase (((s.setMbr (s.mem.read s.mar)).setHalted true).setStepCtr 0) := by
  rw [tickWord_undriven s (by decide : assertedDrivers wordHalt = [])]; rfl

theorem tickWord_wordOperandToMar : tickWord wordOperandToMar s =
    aluPhase ((((s.setMar s.mbr).setPc (s.pc + 1)).setMbr (s.mem.read s.mbr)).setStepCtr (advanced s)) := by
  rw [tickWord_driven s (by decide : assertedDrivers wordOperandToMar = [.memOut])]; rfl

theorem tickWord_wordMemToA : tickWord wordMemToA s =
    aluPhase (((s.setA s.mbr).setMbr (s.mem.read s.mar)).setStepCtr 0) := by
  rw [tickWord_driven s (by decide : assertedDrivers wordMemToA = [.memOut])]; rfl

theorem tickWord_wordMemToB : tickWord wordMemToB s =
    aluPhase (((s.setB s.mbr).setMbr (s.mem.read s.mar)).setStepCtr 0) := by
  rw [tickWord_driven s (by decide : assertedDrivers wordMemToB = [.memOut])]; rfl

theorem tickWord_wordMemToPc : tickWord wordMemToPc s =
    aluPhase (((s.setPc s.mbr).setMbr (s.mem.read s.mar)).setStepCtr 0) := by
  rw [tickWord_driven s (by decide : assertedDrivers wordMemToPc = [.memOut])]; rfl

theorem tickWord_wordOut : tickWord wordOut s =
    aluPhase (((s.setOutput (s.output ++ [s.a])).setMbr (s.mem.read s.mar)).setStepCtr 0) := by
  rw [tickWord_undriven s (by decide : assertedDrivers wordOut = [])]; rfl

theorem tickWord_wordSkipOperand : tickWord wordSkipOperand s =
    aluPhase (((s.setPc (s.pc + 1)).setMbr (s.mem.read s.mar)).setStepCtr 0) := by
  rw [tickWord_undriven s (by decide : assertedDrivers wordSkipOperand = [])]; rfl

theorem tickWord_wordSpToMar : tickWord wordSpToMar s =
    aluPhase (((s.setMar (stackAddr s.cfg s.sp)).setMbr (s.mem.read (stackAddr s.cfg s.sp))).setStepCtr (advanced s)) := by
  rw [tickWord_driven s (by decide : assertedDrivers wordSpToMar = [.spOut])]; rfl

theorem tickWord_wordPushA : tickWord wordPushA s =
    aluPhase ((((s.setMbr s.a).setSp (spIncremented s.cfg s.sp)).setMem (s.mem.write s.mar s.a)).setStepCtr 0) := by
  rw [tickWord_driven s (by decide : assertedDrivers wordPushA = [.aOut])]; rfl

theorem tickWord_wordPushPc : tickWord wordPushPc s =
    aluPhase ((((s.setMbr s.pc).setSp (spIncremented s.cfg s.sp)).setMem (s.mem.write s.mar s.pc)).setStepCtr (advanced s)) := by
  rw [tickWord_driven s (by decide : assertedDrivers wordPushPc = [.pcOut])]; rfl

theorem tickWord_wordSpDec : tickWord wordSpDec s =
    aluPhase (((s.setSp (spDecremented s.cfg s.sp)).setMbr (s.mem.read s.mar)).setStepCtr (advanced s)) := by
  rw [tickWord_undriven s (by decide : assertedDrivers wordSpDec = [])]; rfl

theorem tickWord_wordReturn : tickWord wordReturn s =
    aluPhase (((s.setPc (s.mbr + 1)).setMbr (s.mem.read s.mar)).setStepCtr 0) := by
  rw [tickWord_driven s (by decide : assertedDrivers wordReturn = [.memOut])]; rfl

theorem tickWord_wordAToB : tickWord wordAToB s =
    aluPhase (((s.setB s.a).setMbr (s.mem.read s.mar)).setStepCtr 0) := by
  rw [tickWord_driven s (by decide : assertedDrivers wordAToB = [.aOut])]; rfl

theorem tickWord_wordBToA : tickWord wordBToA s =
    aluPhase (((s.setA s.b).setMbr (s.mem.read s.mar)).setStepCtr 0) := by
  rw [tickWord_driven s (by decide : assertedDrivers wordBToA = [.bOut])]; rfl

/-- The word of the ALU opcodes: the latch goes to A and, in at_writeback mode, ALU_FLAGS to FLAGS (R101). -/
theorem tickWord_wordAluToA : tickWord wordAluToA s = aluPhase (((if s.cfg.flagsMode = .atWriteback
    then (s.setA s.alu).setFlags s.aluFlags else s.setA s.alu).setMbr (s.mem.read s.mar)).setStepCtr 0) := by
  rw [tickWord_driven s (by decide : assertedDrivers wordAluToA = [.aluOut])]
  have hbus : busIn wordAluToA s.alu s =
      if s.cfg.flagsMode = .atWriteback then (s.setA s.alu).setFlags s.aluFlags else s.setA s.alu := by
    by_cases hmode : s.cfg.flagsMode = .atWriteback <;>
      simp [busIn, hmode, asserts_wordOf, wordAluToA, State.setA, State.setFlags]
  change aluPhase (memoryPhase wordAluToA (utilities wordAluToA (busIn wordAluToA s.alu s))) = _
  rw [hbus]
  split <;> rfl

end Sys2Proof.Machine
end

