-- ==== Sys2Proof/Laws/Meaning.lean ====
section
/-! SUPPORT. What the shared operations of the meanings do, field by field: the fetch, the end of an instruction, the
load
operand, the jump paths, the push and the pop. And the two ticks of the fetch. -/

namespace Sys2Proof.Machine

variable (s : State)

/-! `fetchInstr` (R64). -/

@[simp] theorem fetchInstr_cfg (opcode : Byte) : (fetchInstr opcode s).cfg = s.cfg := by simp [fetchInstr]
@[simp] theorem fetchInstr_a (opcode : Byte) : (fetchInstr opcode s).a = s.a := by simp [fetchInstr]
@[simp] theorem fetchInstr_b (opcode : Byte) : (fetchInstr opcode s).b = s.b := by simp [fetchInstr]
@[simp] theorem fetchInstr_pc (opcode : Byte) : (fetchInstr opcode s).pc = s.pc + 1 := by simp [fetchInstr]
@[simp] theorem fetchInstr_mar (opcode : Byte) : (fetchInstr opcode s).mar = s.pc := by simp [fetchInstr]
@[simp] theorem fetchInstr_mbr (opcode : Byte) : (fetchInstr opcode s).mbr = opcode := by simp [fetchInstr]
@[simp] theorem fetchInstr_ir (opcode : Byte) : (fetchInstr opcode s).ir = opcode := by simp [fetchInstr]
@[simp] theorem fetchInstr_stepCtr (opcode : Byte) : (fetchInstr opcode s).stepCtr = s.stepCtr := by simp [fetchInstr]
@[simp] theorem fetchInstr_flags (opcode : Byte) : (fetchInstr opcode s).flags = (aluPhase s).flags := by
  simp [fetchInstr]
@[simp] theorem fetchInstr_aluFlags (opcode : Byte) : (fetchInstr opcode s).aluFlags = (aluPhase s).aluFlags := by
  simp [fetchInstr]
@[simp] theorem fetchInstr_alu (opcode : Byte) : (fetchInstr opcode s).alu = (aluPhase s).alu := by simp [fetchInstr]
@[simp] theorem fetchInstr_sp (opcode : Byte) : (fetchInstr opcode s).sp = s.sp := by simp [fetchInstr]
@[simp] theorem fetchInstr_halted (opcode : Byte) : (fetchInstr opcode s).halted = s.halted := by simp [fetchInstr]
@[simp] theorem fetchInstr_fault (opcode : Byte) : (fetchInstr opcode s).fault = s.fault := by simp [fetchInstr]
@[simp] theorem fetchInstr_output (opcode : Byte) : (fetchInstr opcode s).output = s.output := by simp [fetchInstr]
@[simp] theorem fetchInstr_mem (opcode : Byte) : (fetchInstr opcode s).mem = s.mem := by simp [fetchInstr]

/-- From a settled state the fetch changes MAR, MBR, IR and PC only (R106). -/
theorem fetchInstr_of_settled {s : State} (opcode : Byte) (h : AluSettled s) :
    fetchInstr opcode s = (((s.setMar s.pc).setMbr opcode).setIr opcode).setPc (s.pc + 1) := by
  unfold fetchInstr
  rw [h]

/-! `endInstr` (R76). -/

@[simp] theorem endInstr_cfg : (endInstr s).cfg = s.cfg := by simp [endInstr]
@[simp] theorem endInstr_a : (endInstr s).a = s.a := by simp [endInstr]
@[simp] theorem endInstr_b : (endInstr s).b = s.b := by simp [endInstr]
@[simp] theorem endInstr_pc : (endInstr s).pc = s.pc := by simp [endInstr]
@[simp] theorem endInstr_mar : (endInstr s).mar = s.mar := by simp [endInstr]
@[simp] theorem endInstr_mbr : (endInstr s).mbr = s.mbr := by simp [endInstr]
@[simp] theorem endInstr_ir : (endInstr s).ir = s.ir := by simp [endInstr]
@[simp] theorem endInstr_stepCtr : (endInstr s).stepCtr = 0 := by simp [endInstr]
@[simp] theorem endInstr_flags : (endInstr s).flags = s.flags := by simp [endInstr]
@[simp] theorem endInstr_aluFlags : (endInstr s).aluFlags = s.aluFlags := by simp [endInstr]
@[simp] theorem endInstr_alu : (endInstr s).alu = s.alu := by simp [endInstr]
@[simp] theorem endInstr_sp : (endInstr s).sp = s.sp := by simp [endInstr]
@[simp] theorem endInstr_halted : (endInstr s).halted = s.halted := by simp [endInstr]
@[simp] theorem endInstr_fault : (endInstr s).fault = s.fault := by simp [endInstr]
@[simp] theorem endInstr_output : (endInstr s).output = s.output := by simp [endInstr]
@[simp] theorem endInstr_mem : (endInstr s).mem = s.mem := by simp [endInstr]

/-! `loadOperand` (R87, R88). -/

@[simp] theorem loadOperand_cfg (addr : Byte) : (loadOperand addr s).cfg = s.cfg := by simp [loadOperand, absoluteByte]
@[simp] theorem loadOperand_a (addr : Byte) : (loadOperand addr s).a = s.a := by simp [loadOperand, absoluteByte]
@[simp] theorem loadOperand_b (addr : Byte) : (loadOperand addr s).b = s.b := by simp [loadOperand, absoluteByte]
@[simp] theorem loadOperand_pc (addr : Byte) : (loadOperand addr s).pc = s.pc + 1 := by simp [loadOperand, absoluteByte]
@[simp] theorem loadOperand_mar (addr : Byte) : (loadOperand addr s).mar = addr := by simp [loadOperand, absoluteByte]
@[simp] theorem loadOperand_mbr (addr : Byte) : (loadOperand addr s).mbr = s.mem.read addr := by
  simp [loadOperand, absoluteByte]
@[simp] theorem loadOperand_ir (addr : Byte) : (loadOperand addr s).ir = s.ir := by simp [loadOperand, absoluteByte]
@[simp] theorem loadOperand_stepCtr (addr : Byte) : (loadOperand addr s).stepCtr = s.stepCtr := by
  simp [loadOperand, absoluteByte]
@[simp] theorem loadOperand_flags (addr : Byte) : (loadOperand addr s).flags = s.flags := by
  simp [loadOperand, absoluteByte]
@[simp] theorem loadOperand_aluFlags (addr : Byte) : (loadOperand addr s).aluFlags = s.aluFlags := by
  simp [loadOperand, absoluteByte]
@[simp] theorem loadOperand_alu (addr : Byte) : (loadOperand addr s).alu = s.alu := by simp [loadOperand, absoluteByte]
@[simp] theorem loadOperand_sp (addr : Byte) : (loadOperand addr s).sp = s.sp := by simp [loadOperand, absoluteByte]
@[simp] theorem loadOperand_halted (addr : Byte) : (loadOperand addr s).halted = s.halted := by
  simp [loadOperand, absoluteByte]
@[simp] theorem loadOperand_fault (addr : Byte) : (loadOperand addr s).fault = s.fault := by
  simp [loadOperand, absoluteByte]
@[simp] theorem loadOperand_output (addr : Byte) : (loadOperand addr s).output = s.output := by
  simp [loadOperand, absoluteByte]
@[simp] theorem loadOperand_mem (addr : Byte) : (loadOperand addr s).mem = s.mem := by simp [loadOperand, absoluteByte]

/-! `takeJump` and `skipOperand` (R90, R91). -/

@[simp] theorem takeJump_cfg (target : Byte) : (takeJump target s).cfg = s.cfg := by simp [takeJump]
@[simp] theorem takeJump_a (target : Byte) : (takeJump target s).a = s.a := by simp [takeJump]
@[simp] theorem takeJump_b (target : Byte) : (takeJump target s).b = s.b := by simp [takeJump]
@[simp] theorem takeJump_pc (target : Byte) : (takeJump target s).pc = target := by simp [takeJump]
@[simp] theorem takeJump_mar (target : Byte) : (takeJump target s).mar = s.pc := by simp [takeJump]
@[simp] theorem takeJump_mbr (target : Byte) : (takeJump target s).mbr = target := by simp [takeJump]
@[simp] theorem takeJump_ir (target : Byte) : (takeJump target s).ir = s.ir := by simp [takeJump]
@[simp] theorem takeJump_stepCtr (target : Byte) : (takeJump target s).stepCtr = s.stepCtr := by simp [takeJump]
@[simp] theorem takeJump_flags (target : Byte) : (takeJump target s).flags = s.flags := by simp [takeJump]
@[simp] theorem takeJump_aluFlags (target : Byte) : (takeJump target s).aluFlags = s.aluFlags := by simp [takeJump]
@[simp] theorem takeJump_alu (target : Byte) : (takeJump target s).alu = s.alu := by simp [takeJump]
@[simp] theorem takeJump_sp (target : Byte) : (takeJump target s).sp = s.sp := by simp [takeJump]
@[simp] theorem takeJump_halted (target : Byte) : (takeJump target s).halted = s.halted := by simp [takeJump]
@[simp] theorem takeJump_fault (target : Byte) : (takeJump target s).fault = s.fault := by simp [takeJump]
@[simp] theorem takeJump_output (target : Byte) : (takeJump target s).output = s.output := by simp [takeJump]
@[simp] theorem takeJump_mem (target : Byte) : (takeJump target s).mem = s.mem := by simp [takeJump]

@[simp] theorem skipOperand_cfg : (skipOperand s).cfg = s.cfg := by simp [skipOperand]
@[simp] theorem skipOperand_a : (skipOperand s).a = s.a := by simp [skipOperand]
@[simp] theorem skipOperand_b : (skipOperand s).b = s.b := by simp [skipOperand]
@[simp] theorem skipOperand_pc : (skipOperand s).pc = s.pc + 1 := by simp [skipOperand]
@[simp] theorem skipOperand_mar : (skipOperand s).mar = s.mar := by simp [skipOperand]
@[simp] theorem skipOperand_mbr : (skipOperand s).mbr = s.mbr := by simp [skipOperand]
@[simp] theorem skipOperand_ir : (skipOperand s).ir = s.ir := by simp [skipOperand]
@[simp] theorem skipOperand_stepCtr : (skipOperand s).stepCtr = s.stepCtr := by simp [skipOperand]
@[simp] theorem skipOperand_flags : (skipOperand s).flags = s.flags := by simp [skipOperand]
@[simp] theorem skipOperand_aluFlags : (skipOperand s).aluFlags = s.aluFlags := by simp [skipOperand]
@[simp] theorem skipOperand_alu : (skipOperand s).alu = s.alu := by simp [skipOperand]
@[simp] theorem skipOperand_sp : (skipOperand s).sp = s.sp := by simp [skipOperand]
@[simp] theorem skipOperand_halted : (skipOperand s).halted = s.halted := by simp [skipOperand]
@[simp] theorem skipOperand_fault : (skipOperand s).fault = s.fault := by simp [skipOperand]
@[simp] theorem skipOperand_output : (skipOperand s).output = s.output := by simp [skipOperand]
@[simp] theorem skipOperand_mem : (skipOperand s).mem = s.mem := by simp [skipOperand]

/-- All a conditional jump can do after its fetch. -/
theorem conditionalJump_eq (tested : Bool) (target : Byte) :
    conditionalJump tested target s = if tested = true then takeJump target s else skipOperand s := rfl

/-! `pushByte` and `popByte` (R108 to R111). -/

@[simp] theorem pushByte_cfg (value : Byte) : (pushByte value s).cfg = s.cfg := by simp [pushByte]
@[simp] theorem pushByte_a (value : Byte) : (pushByte value s).a = s.a := by simp [pushByte]
@[simp] theorem pushByte_b (value : Byte) : (pushByte value s).b = s.b := by simp [pushByte]
@[simp] theorem pushByte_pc (value : Byte) : (pushByte value s).pc = s.pc := by simp [pushByte]
@[simp] theorem pushByte_mar (value : Byte) : (pushByte value s).mar = pushAddr s := by simp [pushByte]
@[simp] theorem pushByte_mbr (value : Byte) : (pushByte value s).mbr = value := by simp [pushByte]
@[simp] theorem pushByte_ir (value : Byte) : (pushByte value s).ir = s.ir := by simp [pushByte]
@[simp] theorem pushByte_stepCtr (value : Byte) : (pushByte value s).stepCtr = s.stepCtr := by simp [pushByte]
@[simp] theorem pushByte_flags (value : Byte) : (pushByte value s).flags = s.flags := by simp [pushByte]
@[simp] theorem pushByte_aluFlags (value : Byte) : (pushByte value s).aluFlags = s.aluFlags := by simp [pushByte]
@[simp] theorem pushByte_alu (value : Byte) : (pushByte value s).alu = s.alu := by simp [pushByte]
@[simp] theorem pushByte_sp (value : Byte) : (pushByte value s).sp = spIncremented s.cfg s.sp := by simp [pushByte]
@[simp] theorem pushByte_halted (value : Byte) : (pushByte value s).halted = s.halted := by simp [pushByte]
@[simp] theorem pushByte_fault (value : Byte) : (pushByte value s).fault = s.fault := by simp [pushByte]
@[simp] theorem pushByte_output (value : Byte) : (pushByte value s).output = s.output := by simp [pushByte]
@[simp] theorem pushByte_mem (value : Byte) : (pushByte value s).mem = s.mem.write (pushAddr s) value := by
  simp [pushByte]

@[simp] theorem popByte_cfg : (popByte s).cfg = s.cfg := by simp [popByte]
@[simp] theorem popByte_a : (popByte s).a = s.a := by simp [popByte]
@[simp] theorem popByte_b : (popByte s).b = s.b := by simp [popByte]
@[simp] theorem popByte_pc : (popByte s).pc = s.pc := by simp [popByte]
@[simp] theorem popByte_mar : (popByte s).mar = popAddr s := by simp [popByte]
@[simp] theorem popByte_mbr : (popByte s).mbr = s.mem.read (popAddr s) := by simp [popByte]
@[simp] theorem popByte_ir : (popByte s).ir = s.ir := by simp [popByte]
@[simp] theorem popByte_stepCtr : (popByte s).stepCtr = s.stepCtr := by simp [popByte]
@[simp] theorem popByte_flags : (popByte s).flags = s.flags := by simp [popByte]
@[simp] theorem popByte_aluFlags : (popByte s).aluFlags = s.aluFlags := by simp [popByte]
@[simp] theorem popByte_alu : (popByte s).alu = s.alu := by simp [popByte]
@[simp] theorem popByte_sp : (popByte s).sp = spDecremented s.cfg s.sp := by simp [popByte]
@[simp] theorem popByte_halted : (popByte s).halted = s.halted := by simp [popByte]
@[simp] theorem popByte_fault : (popByte s).fault = s.fault := by simp [popByte]
@[simp] theorem popByte_output : (popByte s).output = s.output := by simp [popByte]
@[simp] theorem popByte_mem : (popByte s).mem = s.mem := by simp [popByte]

/-! `aluInstr` (R102 to R106), but for the two flag registers. -/

/-- The flags of an ALU instruction touch nothing but the two flag registers. -/
theorem aluInstrFlags_cases (written again : FlagWord) :
    (s.cfg.flagsMode = .everyAluCycle ∧ aluInstrFlags written again s = s.setFlags again) ∨
      (s.cfg.flagsMode = .atWriteback ∧ aluInstrFlags written again s = (s.setFlags written).setAluFlags again) := by
  unfold aluInstrFlags
  split <;> simp_all

@[simp] theorem aluInstr_cfg (op : AluOp) : (aluInstr op s).cfg = s.cfg := by
  unfold aluInstr aluInstrFlags; dsimp only; split <;> simp
@[simp] theorem aluInstr_a (op : AluOp) : (aluInstr op s).a = aluResult op s.a s.b := by
  unfold aluInstr aluInstrFlags; dsimp only; split <;> simp
@[simp] theorem aluInstr_b (op : AluOp) : (aluInstr op s).b = s.b := by
  unfold aluInstr aluInstrFlags; dsimp only; split <;> simp
@[simp] theorem aluInstr_pc (op : AluOp) : (aluInstr op s).pc = s.pc + 1 := by
  unfold aluInstr aluInstrFlags; dsimp only; split <;> simp
@[simp] theorem aluInstr_mar (op : AluOp) : (aluInstr op s).mar = s.pc := by
  unfold aluInstr aluInstrFlags; dsimp only; split <;> simp
@[simp] theorem aluInstr_mbr (op : AluOp) : (aluInstr op s).mbr = op.opcode := by
  unfold aluInstr aluInstrFlags; dsimp only; split <;> simp
@[simp] theorem aluInstr_ir (op : AluOp) : (aluInstr op s).ir = op.opcode := by
  unfold aluInstr aluInstrFlags; dsimp only; split <;> simp
@[simp] theorem aluInstr_stepCtr (op : AluOp) : (aluInstr op s).stepCtr = 0 := by
  unfold aluInstr aluInstrFlags; dsimp only; split <;> simp
@[simp] theorem aluInstr_alu (op : AluOp) : (aluInstr op s).alu = aluResult op (aluResult op s.a s.b) s.b := by
  unfold aluInstr aluInstrFlags; dsimp only; split <;> simp
@[simp] theorem aluInstr_sp (op : AluOp) : (aluInstr op s).sp = s.sp := by
  unfold aluInstr aluInstrFlags; dsimp only; split <;> simp
@[simp] theorem aluInstr_halted (op : AluOp) : (aluInstr op s).halted = s.halted := by
  unfold aluInstr aluInstrFlags; dsimp only; split <;> simp
@[simp] theorem aluInstr_fault (op : AluOp) : (aluInstr op s).fault = s.fault := by
  unfold aluInstr aluInstrFlags; dsimp only; split <;> simp
@[simp] theorem aluInstr_output (op : AluOp) : (aluInstr op s).output = s.output := by
  unfold aluInstr aluInstrFlags; dsimp only; split <;> simp
@[simp] theorem aluInstr_mem (op : AluOp) : (aluInstr op s).mem = s.mem := by
  unfold aluInstr aluInstrFlags; dsimp only; split <;> simp

/-! An undefined opcode (R116, R117), and the ALU phase before any instruction (R106). -/

/-- All an undefined opcode can do. -/
theorem undefinedOpcode_cases :
    (s.cfg.undefinedMode = .fault ∧ undefinedOpcode s =
        raiseFault (.invalidOpcode (s.mem.read s.pc) (s.pc + 1)) ((fetchInstr (s.mem.read s.pc) s).setStepCtr 2)) ∨
      (s.cfg.undefinedMode = .romLiteral ∧ undefinedOpcode s = endInstr (fetchInstr (s.mem.read s.pc) s)) := by
  unfold undefinedOpcode
  cases h : s.cfg.undefinedMode <;> simp

/-- A fetch begins with the ALU phase, so one more before it changes nothing. -/
@[simp] theorem fetchInstr_aluPhase (opcode : Byte) : fetchInstr opcode (aluPhase s) = fetchInstr opcode s := by
  simp [fetchInstr]

/-- A meaning reads the state through its fetch, and A, B and memory, so one more ALU phase before it changes
nothing. -/
theorem exec_aluPhase (i : Instr) : exec i (aluPhase s) = exec i s := by
  cases i <;> simp only [exec, execNop, execHlt, execLda, execLdb, execJmp, execAdd, execSub, execXor, execAnd, execOut,
    execJz, execJn, execJc, execPush, execPop, execJsr, execRts, execMovab, execMovba, aluInstr, fetchInstr_aluPhase,
    aluPhase_a, aluPhase_b]

/-! The stack pointer and the stack address (R28, R38). -/

/-- The constraints on the parameters, as propositions. -/
theorem Config.wellFormed_iff (cfg : Config) :
    cfg.wellFormed = true ↔ 6 ≤ cfg.nSteps ∧ 1 ≤ cfg.stackSize ∧ cfg.stackSize ≤ 255 := by
  simp [Config.wellFormed, and_assoc]

/-- In range, a stack address does not wrap. -/
theorem stackAddr_toNat {cfg : Config} {slot : Nat} (h : slot < cfg.stackSize) (hsize : cfg.stackSize ≤ 255) :
    (stackAddr cfg slot).toNat = cfg.stackOffset + slot := by
  simp only [stackAddr, Config.stackOffset, BitVec.toNat_ofNat]
  omega

theorem spIncremented_lt {cfg : Config} (sp : Nat) (h : 1 ≤ cfg.stackSize) : spIncremented cfg sp < cfg.stackSize :=
  Nat.mod_lt _ h

theorem spDecremented_lt {cfg : Config} (sp : Nat) (h : 1 ≤ cfg.stackSize) : spDecremented cfg sp < cfg.stackSize :=
  Nat.mod_lt _ h

/-! A tick (R69, R70, R84). -/

variable {s}

/-- A run that has not ended ticks. -/
theorem tick_of_running (h : Running s) : tick s = .next (runningTick s) := by
  simp [tick, h.noFault, h.notHalted]

/-- A tick that answers a next state started in a run that had not ended. -/
theorem tick_next {t : State} (h : tick s = .next t) : Running s ∧ t = runningTick s := by
  unfold tick at h
  split at h
  · cases h
  · next hfault =>
    split at h
    · cases h
    · next hhalted =>
      cases h
      exact ⟨⟨hfault, by simpa using hhalted⟩, rfl⟩

/-- Below step 2, and for a defined opcode at every step, a tick follows the ROM (R72). -/
theorem runningTick_of_rom (h : s.stepCtr < 2 ∨ validOpcode s.ir = true) :
    runningTick s = tickWord (rom s.ir s.stepCtr s.flags) s := by
  unfold runningTick invalidOpcodeCheck
  rw [if_neg]
  rcases h with h | h <;> simp [h]

theorem ticks_succ (n : Nat) (h : Running s) : ticks (n + 1) s = ticks n (runningTick s) := by
  rw [ticks, tick_of_running h]

/-- Ticks of a run that does not end are the iterated `runningTick`. -/
theorem ticks_eq_iterate (n : Nat) : ∀ {s : State}, (∀ k, k < n → Running (runningTick^[k] s)) →
    ticks n s = .next (runningTick^[n] s) := by
  induction n with
  | zero => intro s _; rfl
  | succ n ih =>
    intro s h
    rw [ticks_succ n (s := s) (h 0 (Nat.succ_pos n)), ih fun k hk => h (k + 1) (Nat.succ_lt_succ hk)]
    rfl

/-- A word with at most one driver runs phases 3 to 6 with that driver's value on the bus (R73). -/
theorem tickWord_of_le {word : ControlWord} (h : (assertedDrivers word).length ≤ 1) :
    tickWord word s = afterBusOut word (busValue (assertedDrivers word) s) s := by
  unfold tickWord
  rw [if_neg (by omega)]

/-- The two ways a tick of a running machine can go (R70). -/
theorem runningTick_cases (s : State) :
    (invalidOpcodeCheck s = true ∧ runningTick s = raiseFault (.invalidOpcode s.ir s.pc) s) ∨
      (invalidOpcodeCheck s = false ∧ runningTick s = tickWord (rom s.ir s.stepCtr s.flags) s) := by
  unfold runningTick
  cases h : invalidOpcodeCheck s <;> simp

/-- The two ticks of the fetch: `fetchInstr`, then the ALU phase of step 1 with the new opcode in IR (R64, R100). -/
theorem fetch_ticks (hrunning : Running s) (hsteps : 3 ≤ s.cfg.nSteps) (hstep : s.stepCtr = 0) :
    runningTick (runningTick s) = aluPhase ((fetchInstr (s.mem.read s.pc) s).setStepCtr 2) ∧
      (runningTick s).stepCtr = 1 ∧ Running (runningTick s) := by
  have h1 : runningTick s = (((aluPhase s).setMar s.pc).setMbr (s.mem.read s.pc)).setStepCtr 1 := by
    rw [runningTick_of_rom (.inl (by omega)), hstep]
    change tickWord wordPcToMar s = _
    rw [tickWord_wordPcToMar, advanced, hstep, Nat.zero_add, Nat.mod_eq_of_lt (by omega), aluPhase_setStepCtr,
      aluPhase_setMbr, aluPhase_setMar]
  have hstep1 : (runningTick s).stepCtr = 1 := by rw [h1]; rfl
  have hrunning1 : Running (runningTick s) := by
    rw [h1]
    exact ⟨by simp [hrunning.noFault], by simp [hrunning.notHalted]⟩
  have hadvanced : advanced (runningTick s) = 2 := by
    rw [advanced, hstep1, h1]
    exact Nat.mod_eq_of_lt (by simpa using Nat.lt_of_succ_le hsteps)
  refine ⟨?_, hstep1, hrunning1⟩
  rw [runningTick_of_rom (.inl (by omega)), hstep1]
  change tickWord wordFetchOpcode _ = _
  rw [tickWord_wordFetchOpcode, hadvanced, h1]
  simp only [State.setStepCtr_mbr, State.setMbr_mbr, State.setStepCtr_pc, State.setMbr_pc, State.setMar_pc, aluPhase_pc,
    State.setStepCtr_mar, State.setMbr_mar, State.setMar_mar, State.setStepCtr_mem, State.setMbr_mem,
    State.setMar_mem, aluPhase_mem]
  rfl

end Sys2Proof.Machine
end

