-- ==== Sys2Proof/Laws/PerInstr.lean ====
section
/-! SUPPORT. Lemmas about each instruction as syntax, one a constructor. -/

namespace Sys2Proof.Laws.FormatOfTable

/-- An instruction is well formed, its opcode is one of the 19 defined values, and its bytes are the opcode byte
alone in
format OP and the opcode byte and the operand byte in format OP_ADDR (R49, R50, R54, R62). -/
def Statement (i : Instr) : Prop :=
  i.wellFormed = true ∧ validOpcode i.opcode = true ∧
    encode i = (match i.operand? with
      | none => [i.opcode]
      | some operand => [i.opcode, operand])

theorem nop : Statement .nop := ⟨rfl, rfl, rfl⟩
theorem hlt : Statement .hlt := ⟨rfl, rfl, rfl⟩
theorem lda (addr : Byte) : Statement (.lda addr) :=
  ⟨decide_eq_true (Nat.le_of_lt_succ addr.isLt), rfl, rfl⟩
theorem ldb (addr : Byte) : Statement (.ldb addr) :=
  ⟨decide_eq_true (Nat.le_of_lt_succ addr.isLt), rfl, rfl⟩
theorem jmp (target : Byte) : Statement (.jmp target) :=
  ⟨decide_eq_true (Nat.le_of_lt_succ target.isLt), rfl, rfl⟩
theorem add : Statement .add := ⟨rfl, rfl, rfl⟩
theorem sub : Statement .sub := ⟨rfl, rfl, rfl⟩
theorem xor : Statement .xor := ⟨rfl, rfl, rfl⟩
theorem and : Statement .and := ⟨rfl, rfl, rfl⟩
theorem out : Statement .out := ⟨rfl, rfl, rfl⟩
theorem jz (target : Byte) : Statement (.jz target) :=
  ⟨decide_eq_true (Nat.le_of_lt_succ target.isLt), rfl, rfl⟩
theorem jn (target : Byte) : Statement (.jn target) :=
  ⟨decide_eq_true (Nat.le_of_lt_succ target.isLt), rfl, rfl⟩
theorem jc (target : Byte) : Statement (.jc target) :=
  ⟨decide_eq_true (Nat.le_of_lt_succ target.isLt), rfl, rfl⟩
theorem push : Statement .push := ⟨rfl, rfl, rfl⟩
theorem pop : Statement .pop := ⟨rfl, rfl, rfl⟩
theorem jsr (target : Byte) : Statement (.jsr target) :=
  ⟨decide_eq_true (Nat.le_of_lt_succ target.isLt), rfl, rfl⟩
theorem rts : Statement .rts := ⟨rfl, rfl, rfl⟩
theorem movab : Statement .movab := ⟨rfl, rfl, rfl⟩
theorem movba : Statement .movba := ⟨rfl, rfl, rfl⟩

end Sys2Proof.Laws.FormatOfTable
end

