-- ==== Sys2Proof/Tests/Slice0.lean ====
section
/-! SUPPORT. Tests. The expected values come from the spec: its encoding tables (30_encoding.md, 40_control_rom.md)
and its
vectors (95_test_vectors.md), named in each docstring. The second part gives, for each statement with hypotheses, a
state and
operands that meet them. -/

namespace Sys2Proof.Tests

open Sys2Proof.Machine

/-! ## Decoding: one word written out from R51 for every constructor -/

theorem test_decode_one_byte :
    decode [0x00] = .ok (.nop, []) ∧ decode [0x01] = .ok (.hlt, []) ∧ decode [0x05] = .ok (.add, []) ∧
    decode [0x06] = .ok (.sub, []) ∧ decode [0x07] = .ok (.xor, []) ∧ decode [0x08] = .ok (.and, []) ∧
    decode [0x09] = .ok (.out, []) ∧ decode [0x0D] = .ok (.push, []) ∧ decode [0x0E] = .ok (.pop, []) ∧
    decode [0x10] = .ok (.rts, []) ∧ decode [0x11] = .ok (.movab, []) ∧ decode [0x12] = .ok (.movba, []) := by and_intros <;> rfl

theorem test_decode_two_bytes :
    decode [0x02, 0x80] = .ok (.lda 0x80, []) ∧ decode [0x03, 0x01] = .ok (.ldb 0x01, []) ∧
    decode [0x04, 0xFF] = .ok (.jmp 0xFF, []) ∧ decode [0x0A, 0x40] = .ok (.jz 0x40, []) ∧
    decode [0x0B, 0x00] = .ok (.jn 0x00, []) ∧ decode [0x0C, 0x7F] = .ok (.jc 0x7F, []) ∧
    decode [0x0F, 0x0F] = .ok (.jsr 0x0F, []) := by and_intros <;> rfl

/-- The byte after a one-byte instruction stays, and an undefined opcode or a missing operand is rejected by name. -/
theorem test_decode_rest_and_errors :
    decode [0x0D, 0x0E] = .ok (.push, [0x0E]) ∧ decode [0x13] = .error (.undefinedOpcode 0x13) ∧
    decode [0xFF, 0x00] = .error (.undefinedOpcode 0xFF) ∧ decode [0x02] = .error .truncated ∧
    decode [] = .error .truncated := by and_intros <;> rfl

/-- The table numbers the operand byte as bits 15..8 (spec/opcode_table.json). -/
theorem test_decodeTableWord :
    decodeTableWord 16 0x8002 = some (.lda 0x80) ∧ decodeTableWord 8 0x0F = some (.jsr 0x00) ∧
    decodeTableWord 8 0x12 = some .movba ∧ decodeTableWord 8 0x13 = none := by decide

/-! ## Well-formedness: each check refuses an ill-formed term. An instruction has no ill-formed term (R54). -/

theorem test_config_refused :
    Config.wellFormed { Config.reference with nSteps := 5 } = false ∧
    Config.wellFormed { Config.reference with stackSize := 0 } = false ∧
    Config.wellFormed { Config.reference with stackSize := 256 } = false := by decide

theorem test_config_accepted :
    Config.reference.wellFormed = true ∧ Config.wellFormed { Config.reference with nSteps := 6 } = true ∧
    Config.wellFormed { Config.reference with stackSize := 1 } = true ∧
    Config.wellFormed { Config.reference with stackSize := 255 } = true := by decide

/-- I1 to I4. -/
theorem test_image_length :
    imageAccepted Config.reference (List.replicate 240 0x00) = true ∧
    imageAccepted Config.reference (List.replicate 239 0x00) = false ∧
    imageAccepted Config.reference (List.replicate 241 0x00) = false ∧
    imageAccepted Config.reference [0x02, 0x05, 0x03, 0x03, 0x05, 0x09, 0x01] = false ∧
    imageAccepted { Config.reference with stackSize := 1 } (List.replicate 255 0x00) = true := by
  decide +kernel

/-- I2: the seven literal bytes of the source's example are refused. -/
theorem test_boot_refused :
    boot Config.reference (some [0x02, 0x05, 0x03, 0x03, 0x05, 0x09, 0x01]) = .error (.wrongLength 7) := rfl

/-! ## The control-word ROM (95_test_vectors.md section 2.1) -/

theorem test_rom_fetch :
    rom 0x00 0 0b00000 = 0x00009 ∧ rom 0xFF 0 0b11111 = 0x00009 ∧ rom 0x37 1 0b01010 = 0x00094 := by decide

theorem test_rom_execute :
    rom 0x00 2 0 = 0x20000 ∧ rom 0x00 3 0 = 0x00000 ∧ rom 0x01 2 0 = 0x60000 ∧ rom 0x02 3 0 = 0x0001C ∧
    rom 0x03 4 0 = 0x20410 ∧ rom 0x04 3 0 = 0x20012 ∧ rom 0x05 2 0 = 0x21100 ∧ rom 0x08 2 0 = 0x21100 ∧
    rom 0x09 2 0 = 0x30000 ∧ rom 0x0D 3 0 = 0x24260 ∧ rom 0x0E 2 0 = 0x08000 ∧ rom 0x0F 3 0 = 0x04061 ∧
    rom 0x0F 5 0 = 0x20012 ∧ rom 0x0F 6 0 = 0x00000 ∧ rom 0x10 4 0 = 0x20016 ∧ rom 0x11 2 0 = 0x20600 ∧
    rom 0x12 2 0 = 0x20900 ∧ rom 0x13 2 0 = 0x00000 ∧ rom 0xFF 7 0 = 0x00000 := by decide

theorem test_rom_conditional :
    rom 0x0A 2 0b00010 = 0x00009 ∧ rom 0x0A 2 0b11101 = 0x20004 ∧ rom 0x0A 3 0b00000 = 0x00000 ∧
    rom 0x0B 2 0b00100 = 0x00009 ∧ rom 0x0B 2 0b00011 = 0x20004 ∧ rom 0x0C 3 0b00001 = 0x20012 ∧
    rom 0x0C 2 0b01110 = 0x20004 := by decide

theorem test_romAddr :
    romAddr Config.reference 0x0F 5 0b00011 = 0x0FA3 ∧ romTable Config.reference 0x0FA3 = 0x20012 ∧
    validOpcode 0x12 = true ∧ validOpcode 0x13 = false := by decide

/-! ## AluFn (95_test_vectors.md section 2.4) -/

theorem test_aluFn :
    aluResult .add 0xFF 0x01 = 0x00 ∧ aluFlagWord .add 0xFF 0x01 = 0b01011 ∧
    aluResult .add 0xFA 0x0A = 0x04 ∧ aluFlagWord .add 0xFA 0x0A = 0b00001 ∧
    aluResult .sub 0x03 0x05 = 0xFE ∧ aluFlagWord .sub 0x03 0x05 = 0b00101 ∧
    aluFlagWord .sub 0x05 0x05 = 0b01010 ∧ aluFlagWord .xor 0x55 0x55 = 0b01010 ∧
    aluFlagWord .and 0xF0 0x0F = 0b01010 ∧ aluResult .and 0xFF 0x7F = 0x7F ∧
    aluFlagWord .and 0xFF 0x7F = 0b00000 ∧ aluResult .sub 0x00 0xFF = 0x01 ∧
    aluFlagWord .sub 0x00 0xFF = 0b00001 := by decide

/-! ## One instruction each (95_test_vectors.md sections 1, 2.3 and 2.4) -/

/-- Memory with some bytes stored. -/
def memoryOf : List (Byte × Byte) → Memory
  | [] => []
  | (addr, value) :: rest => (memoryOf rest).write addr value

/-- The machine right after reset but for PC and some bytes of memory. -/
def start (pc : Byte) (bytes : List (Byte × Byte)) : State := { State.reset with pc := pc, mem := memoryOf bytes }

/-- The same in at_writeback mode. -/
def startWb (pc : Byte) (bytes : List (Byte × Byte)) : State :=
  { start pc bytes with cfg := { Config.reference with flagsMode := .atWriteback } }

/-- Whether a next state is answered that passes a check. -/
def nextWith (outcome : Host.Outcome State Fault Refusal) (check : State → Bool) : Bool :=
  match outcome with
  | .next t => check t
  | .fault _ => false
  | .refused _ => false

/-- V2. -/
theorem test_nop_wraps_pc :
    nextWith (step (start 0xFF [])) (fun t => t.pc == 0x00 && t.mar == 0xFF && t.stepCtr == 0) = true := by decide

/-- V3. -/
theorem test_hlt : nextWith (step { start 0x06 [(0x06, 0x01)] with a := 0x09 })
    (fun t => t.halted && t.pc == 0x07 && t.mar == 0x06 && t.mbr == 0x01 && t.a == 0x09) = true := by decide

/-- V5: the load reads its own opcode byte. -/
theorem test_lda_own_opcode : nextWith (step (start 0x10 [(0x10, 0x02), (0x11, 0x10)]))
    (fun t => t.a == 0x02 && t.pc == 0x12 && t.mar == 0x10) = true := by decide

/-- V8: a load of zero leaves the flags. -/
theorem test_lda_keeps_flags : nextWith (step { start 0x10 [(0x10, 0x02), (0x11, 0x80)] with a := 0x33, flags := 0b00101 })
    (fun t => t.a == 0x00 && t.flags == 0b00101) = true := by decide

/-- V7: the operand address wraps. -/
theorem test_ldb_at_the_top : nextWith (step (start 0xFF [(0xFF, 0x03), (0x00, 0x80), (0x80, 0xA5)]))
    (fun t => t.b == 0xA5 && t.a == 0x00 && t.pc == 0x01 && t.mar == 0x80) = true := by decide

/-- V9. -/
theorem test_jmp : nextWith (step (start 0x10 [(0x10, 0x04), (0x11, 0x40)]))
    (fun t => t.pc == 0x40 && t.mar == 0x11 && t.mbr == 0x40 && t.ir == 0x04) = true := by decide

/-- E1 and the first row of section 2.4, in both flag modes. -/
theorem test_add_every : nextWith (step { start 0x10 [(0x10, 0x05)] with a := 0xFA, b := 0x0A })
    (fun t => t.a == 0x04 && t.alu == 0x0E && t.flags == 0b00000) = true := by decide
theorem test_add_wb : nextWith (step { startWb 0x10 [(0x10, 0x05)] with a := 0xFA, b := 0x0A })
    (fun t => t.a == 0x04 && t.alu == 0x0E && t.flags == 0b00001 && t.aluFlags == 0b00000) = true := by decide

/-- E2. -/
theorem test_sub_every : nextWith (step { start 0x10 [(0x10, 0x06)] with a := 0x03, b := 0x05 })
    (fun t => t.a == 0xFE && t.alu == 0xF9 && t.flags == 0b01100) = true := by decide
theorem test_sub_wb : nextWith (step { startWb 0x10 [(0x10, 0x06)] with a := 0x03, b := 0x05 })
    (fun t => t.a == 0xFE && t.flags == 0b00101 && t.aluFlags == 0b01100) = true := by decide

/-- Section 2.4, the rows XOR 0F FF and XOR 00 80. -/
theorem test_xor_every : nextWith (step { start 0x10 [(0x10, 0x07)] with a := 0x0F, b := 0xFF })
    (fun t => t.a == 0xF0 && t.alu == 0x0F && t.flags == 0b01000) = true := by decide
theorem test_xor_wb : nextWith (step { startWb 0x10 [(0x10, 0x07)] with b := 0x80 })
    (fun t => t.a == 0x80 && t.alu == 0x00 && t.flags == 0b00100) = true := by decide

/-- Section 2.4, the rows AND F0 3C and AND 0F F0. -/
theorem test_and_every : nextWith (step { start 0x10 [(0x10, 0x08)] with a := 0xF0, b := 0x3C })
    (fun t => t.a == 0x30 && t.alu == 0x30 && t.flags == 0b01000) = true := by decide
theorem test_and_wb : nextWith (step { startWb 0x10 [(0x10, 0x08)] with a := 0x0F, b := 0xF0 })
    (fun t => t.a == 0x00 && t.alu == 0x00 && t.flags == 0b01010) = true := by decide

/-- V19, the second OUT: the byte goes to the end of OUTPUT. -/
theorem test_out : nextWith (step { start 0x11 [(0x11, 0x09)] with a := 0x05, output := [0x2A] })
    (fun t => t.output == [0x2A, 0x05] && t.pc == 0x12) = true := by decide

/-- V11 and V12. -/
theorem test_jz_taken : nextWith (step { start 0x10 [(0x10, 0x0A), (0x11, 0x40)] with flags := 0b00010 })
    (fun t => t.pc == 0x40 && t.mar == 0x11 && t.mbr == 0x40) = true := by decide
theorem test_jz_not_taken : nextWith (step { start 0x10 [(0x10, 0x0A), (0x11, 0x40)] with flags := 0b00101 })
    (fun t => t.pc == 0x12 && t.mar == 0x10 && t.mbr == 0x0A) = true := by decide

/-- V13 and V14. -/
theorem test_jn_taken : nextWith (step { start 0x10 [(0x10, 0x0B), (0x11, 0x40)] with flags := 0b00100 })
    (fun t => t.pc == 0x40) = true := by decide
theorem test_jn_not_taken : nextWith (step { start 0x10 [(0x10, 0x0B), (0x11, 0x40)] with flags := 0b01011 })
    (fun t => t.pc == 0x12) = true := by decide

/-- V17 and V16. -/
theorem test_jc_taken_at_the_top :
    nextWith (step { start 0xFF [(0xFF, 0x0C), (0x00, 0x40)] with flags := 0b00001 })
      (fun t => t.pc == 0x40 && t.mar == 0x00) = true := by decide
theorem test_jc_not_taken : nextWith (step { start 0x10 [(0x10, 0x0C), (0x11, 0x40)] with flags := 0b01110 })
    (fun t => t.pc == 0x12) = true := by decide

/-- V21 and V22: SP wraps at its last slot, and with one slot it stays 0. -/
theorem test_push_full : nextWith (step { start 0x10 [(0x10, 0x0D)] with a := 0x77, sp := 15 })
    (fun t => t.mem.read 0xFF == 0x77 && t.sp == 0 && t.mar == 0xFF) = true := by decide
theorem test_push_one_slot :
    nextWith (step { start 0x10 [(0x10, 0x0D)] with cfg := { Config.reference with stackSize := 1 }, a := 0x77 })
      (fun t => t.mem.read 0xFF == 0x77 && t.sp == 0) = true := by decide

/-- V23 and V24. -/
theorem test_pop : nextWith (step { start 0x10 [(0x10, 0x0E), (0xF3, 0x66)] with sp := 4 })
    (fun t => t.a == 0x66 && t.sp == 3 && t.mar == 0xF3 && t.mbr == 0x66 && t.pc == 0x11) = true := by decide
theorem test_pop_empty : nextWith (step (start 0x10 [(0x10, 0x0E), (0xFF, 0x99)]))
    (fun t => t.a == 0x99 && t.sp == 15 && t.mar == 0xFF) = true := by decide

/-- V26, and V27: the push overwrites the operand byte. -/
theorem test_jsr_full : nextWith (step { start 0x10 [(0x10, 0x0F), (0x11, 0x40)] with sp := 15 })
    (fun t => t.pc == 0x40 && t.sp == 0 && t.mem.read 0xFF == 0x11 && t.mar == 0x11) = true := by decide
theorem test_jsr_overwrites_its_operand : nextWith (step (start 0xEF [(0xEF, 0x0F), (0xF0, 0x40)]))
    (fun t => t.mem.read 0xF0 == 0xF0 && t.pc == 0xF0 && t.sp == 1) = true := by decide

/-- V29 and V30. -/
theorem test_rts_wraps : nextWith (step { start 0x40 [(0x40, 0x10), (0xF0, 0xFF)] with sp := 1 })
    (fun t => t.pc == 0x00 && t.sp == 0) = true := by decide
theorem test_rts_empty : nextWith (step (start 0x10 [(0x10, 0x10), (0xFF, 0x30)]))
    (fun t => t.pc == 0x31 && t.sp == 15 && t.mar == 0xFF) = true := by decide

/-- V31 and V32. -/
theorem test_movab : nextWith (step { start 0x10 [(0x10, 0x11)] with a := 0x03, b := 0x09 })
    (fun t => t.a == 0x03 && t.b == 0x03) = true := by decide
theorem test_movba : nextWith (step { start 0x10 [(0x10, 0x12)] with a := 0x03, b := 0x09 })
    (fun t => t.a == 0x09 && t.b == 0x09) = true := by decide

/-! ## Ticks and faults (95_test_vectors.md sections 2.2 and 2.5) -/

/-- The ticks of JSR 0x40 at 0x10, after tick 3 and after tick 4. -/
theorem test_jsr_ticks :
    nextWith (ticks 3 (start 0x10 [(0x10, 0x0F), (0x11, 0x40)]))
      (fun t => t.stepCtr == 3 && t.pc == 0x11 && t.mar == 0xF0 && t.mbr == 0x00 && t.sp == 0) = true ∧
    nextWith (ticks 4 (start 0x10 [(0x10, 0x0F), (0x11, 0x40)]))
      (fun t => t.stepCtr == 4 && t.mbr == 0x11 && t.sp == 1 && t.mem.read 0xF0 == 0x11) = true := by decide

/-- Ticks 12 and 13 of P1: the ALU phase runs in the fetch of ADD already, and once more after A is written. -/
theorem test_alu_ticks :
    nextWith (ticks 2 { start 0x04 [(0x04, 0x05)] with a := 0x07, b := 0x02, ir := 0x03 })
      (fun t => t.a == 0x07 && t.alu == 0x09 && t.flags == 0b01000) = true ∧
    nextWith (ticks 3 { start 0x04 [(0x04, 0x05)] with a := 0x07, b := 0x02, ir := 0x03 })
      (fun t => t.a == 0x09 && t.alu == 0x0B && t.flags == 0b00000 && t.stepCtr == 0) = true := by decide

/-- X1. -/
theorem test_undefined_faults : nextWith (step (start 0x00 [(0x00, 0xFF)]))
    (fun t => t.fault == some (.invalidOpcode 0xFF 0x01) && t.pc == 0x01 && t.mar == 0x00 && t.mbr == 0xFF &&
      t.ir == 0xFF && t.stepCtr == 2) = true := by decide

/-- X3 and X4: the undefined byte is a no-op of N_STEPS ticks. -/
theorem test_undefined_literal :
    nextWith (ticks 6 { start 0x01 [(0x01, 0x13)] with
        cfg := { Config.reference with nSteps := 6, undefinedMode := .romLiteral } })
      (fun t => t.pc == 0x02 && t.stepCtr == 0 && t.fault == none) = true := by decide

/-- X5: the tick changes nothing but FAULT. -/
theorem test_bus_contention : tickWord 0x00201 State.reset = State.reset.setFault (some (.busContention 0x00201)) := by
  decide

/-- X6: an undefined value that is loaded is no fault. -/
theorem test_undefined_value_loads : nextWith (step (start 0x10 [(0x10, 0x02), (0x11, 0x80), (0x80, 0x13)]))
    (fun t => t.a == 0x13 && t.fault == none) = true := by decide

/-- The word that the host stores is the one that runs. -/
theorem test_withFetchWord : nextWith (step (State.reset.withFetchWord 16 0x4004)) (fun t => t.pc == 0x40) = true := by
  decide

/-! ## Memory -/

/-- Storing 0x00 removes the entry, and the form stays canonical. -/
theorem test_memory_canonical :
    (memoryOf [(0x10, 0x01), (0x02, 0x05)]).wf = true ∧ (memoryOf [(0x10, 0x01)]).write 0x10 0x00 = [] ∧
    (memoryOf [(0x10, 0x01), (0x02, 0x05)]).read 0x10 = 0x01 := by decide

/-! ## Assembly (30_encoding.md rule R55, 95_test_vectors.md program P2) -/

/-- P2: labels before and after their use, `.org` and `.byte`. -/
theorem test_assemble_P2 :
    assemble? ["        .org 0x00".toList, "        LDA  0x20        ; 00: 02 20".toList, "        LDB  0x21".toList,
      "loop:   OUT".toList, "        SUB".toList, "        JZ   done".toList, "        JMP  loop".toList,
      "done:   HLT".toList, "        .org 0x20".toList, "        .byte 3".toList, "        .byte 1".toList] =
    some [(0x00, 0x02), (0x01, 0x20), (0x02, 0x03), (0x03, 0x21), (0x04, 0x09), (0x05, 0x06), (0x06, 0x0A), (0x07, 0x0A),
      (0x08, 0x04), (0x09, 0x04), (0x0A, 0x01), (0x20, 0x03), (0x21, 0x01)] := by decide +kernel

/-- `#` means nothing, and a number above 255 and an unknown mnemonic are refused. -/
theorem test_assemble_operands :
    assemble? ["LDA #0x05".toList] = some [(0x00, 0x02), (0x01, 0x05)] ∧
    assemble? ["JMP 255".toList] = some [(0x00, 0x04), (0x01, 0xFF)] ∧ assemble? ["JMP 256".toList] = none ∧
    assemble? ["MOV 1".toList] = none := by decide +kernel

/-- The codes of the table of R115. -/
theorem test_fault_codes :
    faultCode none = 0 ∧ faultCode (some (.invalidOpcode 0xFF 0x01)) = 1 ∧ faultCode (some (.busContention 0x00201)) = 2 :=
  ⟨rfl, rfl, rfl⟩

/-! ## Witnesses: states and operands that meet the hypotheses of the statements -/

/-- A state in which an instruction can start, from what `decide` can check. -/
theorem ready_of (s : State)
    (h : (s.cfg.wellFormed && !s.fault.isSome && !s.halted && decide (s.stepCtr = 0)) = true) (hs : AluSettled s) :
    Ready s := by
  simp only [Bool.and_eq_true, Bool.not_eq_true', Option.isSome_eq_false_iff, Option.isNone_iff_eq_none,
    decide_eq_true_eq] at h
  exact ⟨h.1.1.1, ⟨h.1.1.2, h.1.2⟩, h.2, hs⟩

/-- Undefined opcodes at both ends of their range, and an opcode that takes an operand. -/
theorem witness_UndefinedOpcodesAreRejected :
    0x13 ≤ (0x13 : Byte).toNat ∧ 0x13 ≤ (0xFF : Byte).toNat ∧ opcodeLength? 0x0F = some 2 ∧ opcodeLength? 0x02 = some 2 := by
  decide

/-- Words with a receiver, with MEM_WE, and with both PC_IN and PC_INC. -/
theorem witness_RomWordsKeepTheBusRules :
    assertedReceivers (rom 0x02 4 0) ≠ [] ∧ asserts (rom 0x0D 3 0) .memWe = true ∧
    (asserts (rom 0x10 4 0) .pcIn = true ∧ asserts (rom 0x10 4 0) .pcInc = true) := by decide

theorem witness_SourceAssemblesToItsBytes : (Instr.lda 0x00).operand? = some 0x00 ∧ (Instr.jsr 0xFF).operand? = some 0xFF :=
  ⟨rfl, rfl⟩

/-- Flags that differ, but not in the tested bit. -/
theorem witness_OnlyTestedFlagSelectsWords :
    flagZ 0b00010 = flagZ 0b11111 ∧ flagN 0b00100 = flagN 0b11111 ∧ flagC 0b00001 = flagC 0b11111 := by decide

theorem witness_RomTableHoldsEveryKey : 7 < Config.reference.nSteps ∧ 0 < Config.reference.nSteps := by decide

/-- One word for each driver, and words without any; words that move SP up and down, and one with MEM_WE and MBR_IN. -/
theorem witness_TickTransfersThroughTheBus :
    assertedDrivers 0x20000 = [] ∧ assertedDrivers 0x00009 = [.pcOut] ∧ assertedDrivers 0x20110 = [.memOut] ∧
    assertedDrivers 0x24260 = [.aOut] ∧ assertedDrivers 0x20900 = [.bOut] ∧ assertedDrivers 0x21100 = [.aluOut] ∧
    assertedDrivers 0x02008 = [.spOut] ∧
    (assertedDrivers 0x04000 = [] ∧ asserts 0x04000 .spInc = true) ∧
    (assertedDrivers 0x08000 = [] ∧ asserts 0x08000 .spDec = true) ∧
    asserts 0x24260 .memWe = true ∧ asserts 0x24260 .mbrIn = true := by decide

theorem witness_EachTickAccessesMemoryOnce :
    ((assertedDrivers 0x24260).length ≤ 1 ∧ asserts 0x24260 .memWe = true) ∧
    ((assertedDrivers 0x00009).length ≤ 1 ∧ asserts 0x00009 .memWe = false) := by decide

/-- PC_INC with PC_IN and without it. -/
theorem witness_PcIncrementWraps :
    ((assertedDrivers 0x20016).length ≤ 1 ∧ asserts 0x20016 .pcInc = true ∧ asserts 0x20016 .pcIn = true) ∧
    ((assertedDrivers 0x20004).length ≤ 1 ∧ asserts 0x20004 .pcInc = true ∧ asserts 0x20004 .pcIn = false) := by decide

/-- SP_INC at the last slot, SP_DEC at slot 0, both at once, and neither. -/
theorem witness_StackPointerWrapsWithinStack :
    (start 0 []).cfg.wellFormed = true ∧ (start 0 []).sp < (start 0 []).cfg.stackSize ∧ 15 < (start 0 []).cfg.stackSize ∧
    ((assertedDrivers 0x04061).length ≤ 1 ∧ asserts 0x04061 .spInc = true ∧ asserts 0x04061 .spDec = false) ∧
    ((assertedDrivers 0x08000).length ≤ 1 ∧ asserts 0x08000 .spInc = false ∧ asserts 0x08000 .spDec = true) ∧
    ((assertedDrivers 0x0C000).length ≤ 1 ∧ asserts 0x0C000 .spInc = true ∧ asserts 0x0C000 .spDec = true) ∧
    ((assertedDrivers 0).length ≤ 1 ∧ asserts 0 .spInc = false ∧ asserts 0 .spDec = false) := by decide

/-- Both modes, with an ALU opcode in IR after the tick and with another. -/
theorem witness_AluPhaseEndsEveryTick :
    (assertedDrivers 0x21100).length ≤ 1 ∧ aluOpOf (tickWord 0x21100 { start 0 [] with ir := 0x05 }).ir = some .add ∧
    aluOpOf (tickWord 0x21100 { startWb 0 [] with ir := 0x08 }).ir = some .and ∧
    aluOpOf (tickWord 0x21100 (start 0 [])).ir = none ∧ aluOpOf (tickWord 0x21100 (startWb 0 [])).ir = none := by decide

/-- Ticks that write IR, FLAGS, memory, SP, OUTPUT, HALTED and FAULT. -/
theorem witness_EachRegisterHasItsWriters :
    nextWith (tick { start 0 [] with mbr := 0x05, stepCtr := 1 }) (fun t => t.ir != 0x00 && t.flags != 0) = true ∧
    nextWith (tick { start 0 [] with ir := 0x0D, stepCtr := 3, mar := 0xF0, a := 0x01 })
      (fun t => t.mem != [] && t.sp != 0) = true ∧
    nextWith (tick { start 0 [] with ir := 0x09, stepCtr := 2 }) (fun t => t.output != []) = true ∧
    nextWith (tick { start 0 [] with ir := 0x01, stepCtr := 2 }) (fun t => t.halted) = true ∧
    nextWith (tick { start 0 [] with ir := 0x13, stepCtr := 2 }) (fun t => t.fault != none) = true := by decide

theorem witness_BusContentionStopsTheTick :
    2 ≤ (assertedDrivers 0x00201).length ∧ 2 ≤ (assertedDrivers 0x7FFFF).length := by decide

/-- The first and the last undefined opcode, at the first and the last execute step. -/
theorem witness_InvalidOpcodeStopsTheTick :
    (Running { start 0 [] with ir := 0x13, stepCtr := 2 } ∧ 0x13 ≤ (0x13 : Byte).toNat) ∧
    (Running { start 0 [] with ir := 0xFF, stepCtr := 7 } ∧ 0x13 ≤ (0xFF : Byte).toNat) ∧
    (start 0 []).cfg.undefinedMode = .fault :=
  ⟨⟨⟨rfl, rfl⟩, by decide⟩, ⟨⟨rfl, rfl⟩, by decide⟩, rfl⟩

theorem witness_UndefinedOpcodeFaultsPrecisely :
    Ready (start 0xFF [(0xFF, 0x13)]) ∧ (start 0xFF [(0xFF, 0x13)]).cfg.undefinedMode = .fault ∧
    0x13 ≤ ((start 0xFF [(0xFF, 0x13)]).mem.read 0xFF).toNat := ⟨ready_of _ (by decide) rfl, rfl, by decide⟩

/-- Under the least N_STEPS. -/
def literalStart : State :=
  { start 0x00 [(0x00, 0xFF)] with cfg := { Config.reference with nSteps := 6, undefinedMode := .romLiteral } }

theorem witness_UndefinedOpcodeIsLiteralNoOp :
    Ready literalStart ∧ literalStart.cfg.undefinedMode = .romLiteral ∧
    0x13 ≤ (literalStart.mem.read literalStart.pc).toNat := ⟨ready_of _ (by decide) rfl, rfl, by decide⟩

theorem witness_EndedRunHasNoTick :
    ((start 0 []).setFault (some (.invalidOpcode 0x13 0x01))).fault = some (.invalidOpcode 0x13 0x01) ∧
    (((start 0 []).setHalted true).fault = none ∧ ((start 0 []).setHalted true).halted = true) := by decide

/-- Each clause's hypotheses: a tick that leaves a fault; the instructions answer; PC, and SP at both ends. -/
theorem witness_NothingElseRaisesAFault :
    nextWith (tick { start 0 [] with ir := 0x13, stepCtr := 2 }) (fun t => t.fault != none) = true ∧
    nextWith (exec .add { start 0 [] with a := 0xFF, b := 0xFF }) (fun t => t.a == 0xFE) = true ∧
    nextWith (exec .sub { start 0 [] with b := 0x01 }) (fun t => t.a == 0xFF) = true ∧
    nextWith (exec .nop (start 0xFF [])) (fun t => t.pc == 0x00) = true ∧
    nextWith (exec .push { start 0 [] with sp := 15 }) (fun t => t.sp == 0) = true ∧
    nextWith (exec .pop (start 0 [])) (fun t => t.sp == 15) = true ∧
    (start 0 []).cfg.wellFormed = true ∧ (start 0xFF []).pc = 0xFF := by decide

/-- A settled state in which NOP can start; the same for each instruction below. -/
theorem witness_NopOnlyFetches :
    AluSettled (start 0xFF []) ∧ Ready (start 0xFF []) ∧ HoldsInstr .nop (start 0xFF []) :=
  ⟨rfl, ready_of _ (by decide) rfl, by decide⟩

theorem witness_HltEndsTheRun :
    AluSettled (start 0 [(0x00, 0x01)]) ∧ Ready (start 0 [(0x00, 0x01)]) ∧ HoldsInstr .hlt (start 0 [(0x00, 0x01)]) :=
  ⟨rfl, ready_of _ (by decide) rfl, by decide⟩

theorem witness_LoadsReadTheAbsoluteAddress :
    (Ready (start 0xFF [(0xFF, 0x02), (0x00, 0x80)]) ∧ HoldsInstr (.lda 0x80) (start 0xFF [(0xFF, 0x02), (0x00, 0x80)])) ∧
    (Ready (start 0x10 [(0x10, 0x03), (0x11, 0x11)]) ∧ HoldsInstr (.ldb 0x11) (start 0x10 [(0x10, 0x03), (0x11, 0x11)])) :=
  ⟨⟨ready_of _ (by decide) rfl, by decide⟩, ready_of _ (by decide) rfl, by decide⟩

theorem witness_JmpTransfersControl :
    Ready (start 0x10 [(0x10, 0x04), (0x11, 0xFF)]) ∧ HoldsInstr (.jmp 0xFF) (start 0x10 [(0x10, 0x04), (0x11, 0xFF)]) :=
  ⟨ready_of _ (by decide) rfl, by decide⟩

/-- A conditional jump at the top of memory, with its flag 1 and with its flag 0. -/
def conditionalStart (opcode : Byte) (flags : FlagWord) : State :=
  { start 0xFF [(0xFF, opcode), (0x00, 0x40)] with flags := flags }

theorem witness_ConditionalJumpsTestOneFlag :
    (Ready (conditionalStart 0x0A 0b00010) ∧ HoldsInstr (.jz 0x40) (conditionalStart 0x0A 0b00010) ∧
      flagZ 0b00010 = true) ∧
    (Ready (conditionalStart 0x0A 0b01101) ∧ HoldsInstr (.jz 0x40) (conditionalStart 0x0A 0b01101) ∧
      flagZ 0b01101 = false) ∧
    (Ready (conditionalStart 0x0B 0b00100) ∧ HoldsInstr (.jn 0x40) (conditionalStart 0x0B 0b00100) ∧
      flagN 0b00100 = true) ∧
    (Ready (conditionalStart 0x0B 0b01011) ∧ HoldsInstr (.jn 0x40) (conditionalStart 0x0B 0b01011) ∧
      flagN 0b01011 = false) ∧
    (Ready (conditionalStart 0x0C 0b00001) ∧ HoldsInstr (.jc 0x40) (conditionalStart 0x0C 0b00001) ∧
      flagC 0b00001 = true) ∧
    (Ready (conditionalStart 0x0C 0b01110) ∧ HoldsInstr (.jc 0x40) (conditionalStart 0x0C 0b01110) ∧
      flagC 0b01110 = false) := by
  refine ⟨?_, ?_, ?_, ?_, ?_, ?_⟩ <;> exact ⟨ready_of _ (by decide) rfl, by decide, by decide⟩

/-- The clauses of the same statement about the ALU instructions. -/
theorem witness_ConditionalJumps_flags :
    (start 0 []).cfg.flagsMode = .everyAluCycle ∧ nextWith (exec .sub (start 0 [])) (fun _ => true) = true ∧
    nextWith (exec .add { start 0 [] with a := 250, b := 10 }) (fun t => !flagC t.flags) = true ∧
    nextWith (exec .add { startWb 0 [] with a := 250, b := 10 }) (fun t => flagC t.flags) = true ∧
    nextWith (exec .sub { start 0 [] with a := 3, b := 5 }) (fun t => flagN t.flags) = true ∧
    nextWith (exec .sub { startWb 0 [] with a := 3, b := 5 }) (fun t => flagN t.flags) = true := by decide

/-- Each ALU instruction can start, in both modes. -/
theorem witness_AluInstructionsLeaveTheirTable :
    (Ready (start 0x10 [(0x10, 0x05)]) ∧ HoldsInstr .add (start 0x10 [(0x10, 0x05)])) ∧
    (Ready (startWb 0x10 [(0x10, 0x06)]) ∧ HoldsInstr .sub (startWb 0x10 [(0x10, 0x06)])) ∧
    (Ready (start 0x10 [(0x10, 0x07)]) ∧ HoldsInstr .xor (start 0x10 [(0x10, 0x07)])) ∧
    (Ready (startWb 0x10 [(0x10, 0x08)]) ∧ HoldsInstr .and (startWb 0x10 [(0x10, 0x08)])) := by
  refine ⟨?_, ?_, ?_, ?_⟩ <;> exact ⟨ready_of _ (by decide) rfl, by decide⟩

theorem witness_OutAppendsA : Ready (start 0x10 [(0x10, 0x09)]) ∧ HoldsInstr .out (start 0x10 [(0x10, 0x09)]) :=
  ⟨ready_of _ (by decide) rfl, by decide⟩

/-- PUSH with SP at its last slot. -/
theorem witness_PushStoresAndIncrements :
    Ready ((start 0x10 [(0x10, 0x0D)]).setSp 15) ∧ HoldsInstr .push ((start 0x10 [(0x10, 0x0D)]).setSp 15) :=
  ⟨ready_of _ (by decide) rfl, by decide⟩

/-- POP with SP at slot 0; the clause about PUSH and POP has the hypotheses of `witness_stack`. -/
theorem witness_PopDecrementsAndLoads : Ready (start 0x10 [(0x10, 0x0E)]) ∧ HoldsInstr .pop (start 0x10 [(0x10, 0x0E)]) :=
  ⟨ready_of _ (by decide) rfl, by decide⟩

/-- JSR with its operand byte outside the slot it pushes to, and in it. -/
theorem witness_JsrPushesThenReadsItsOperand :
    (Ready (start 0x10 [(0x10, 0x0F), (0x11, 0x40)]) ∧ HoldsInstr (.jsr 0x40) (start 0x10 [(0x10, 0x0F), (0x11, 0x40)]) ∧
      pushAddr (start 0x10 [(0x10, 0x0F), (0x11, 0x40)]) ≠ 0x11) ∧
    (Ready (start 0xEF [(0xEF, 0x0F), (0xF0, 0x40)]) ∧ HoldsInstr (.jsr 0x40) (start 0xEF [(0xEF, 0x0F), (0xF0, 0x40)]) ∧
      pushAddr (start 0xEF [(0xEF, 0x0F), (0xF0, 0x40)]) = 0xF0) := by
  constructor <;> exact ⟨ready_of _ (by decide) rfl, by decide, by decide⟩

theorem witness_RtsReturnsPastTheOperand : Ready (start 0x10 [(0x10, 0x10)]) ∧ HoldsInstr .rts (start 0x10 [(0x10, 0x10)]) :=
  ⟨ready_of _ (by decide) rfl, by decide⟩

theorem witness_MovesCopyOneRegister :
    (Ready (start 0x10 [(0x10, 0x11)]) ∧ HoldsInstr .movab (start 0x10 [(0x10, 0x11)])) ∧
    (Ready (start 0x10 [(0x10, 0x12)]) ∧ HoldsInstr .movba (start 0x10 [(0x10, 0x12)])) := by
  constructor <;> exact ⟨ready_of _ (by decide) rfl, by decide⟩

/-- NonStoringInstructionsKeepMemory, PushAndJsrStoreOneByte and InstructionsKeepOtherRegisters: an instruction that
stores
nothing and both that store answer a next state, and the state is settled. -/
theorem witness_frames :
    nextWith (exec (.lda 0x80) (start 0 [])) (fun _ => true) = true ∧ (Instr.lda 0x80).opcode ≠ 0x0D ∧
    (Instr.lda 0x80).opcode ≠ 0x0F ∧ nextWith (exec .push (start 0 [])) (fun _ => true) = true ∧
    nextWith (exec (.jsr 0x40) { start 0 [] with sp := 15 }) (fun _ => true) = true ∧ AluSettled (start 0 []) ∧
    15 < (start 0 []).cfg.stackSize ∧ (start 0 []).cfg.wellFormed = true := by decide

/-- JsrThenRtsResumes, StackPointerCountsPushes and the last clause of PopDecrementsAndLoads: parameters within their
constraints, and SP at both ends. -/
theorem witness_stack :
    ((start 0 []).cfg.wellFormed = true ∧ (start 0 []).sp < (start 0 []).cfg.stackSize) ∧
    (((start 0 []).setSp 15).cfg.wellFormed = true ∧ ((start 0 []).setSp 15).sp < ((start 0 []).setSp 15).cfg.stackSize) := by
  decide

/-- EveryTickKeepsItsInvariant and ProgramRegionIsNeverWritten: a state in the middle of PUSH, about to store. -/
def midPush : State :=
  { start 0x11 [(0x10, 0x0D)] with ir := 0x0D, stepCtr := 3, mar := 0xF0, mbr := 0x00, a := 0x77 }

theorem witness_TickInv_midPush : TickInv midPush ∧ nextWith (tick midPush) (fun t => t.mem.read 0xF0 == 0x77) = true where
  left :=
    { cfgWellFormed := by decide
      memWf := by decide
      spInRange := by decide
      stepInRange := by decide
      flagsReserved := by decide
      aluFlagsReserved := by decide
      aluFlagsAbsent := fun _ => rfl
      aluSettled := rfl
      bufferCurrent := fun _ => rfl
      storeAddress := fun _ _ => rfl
      withinMicrocode := by decide
      undefinedStops := by decide
      haltedByHlt := by decide
      faultPrecise := fun _ h => nomatch h }
  right := by decide

/-- EveryStepKeepsItsInvariant and ProgramRegionIsNeverWritten: a state before PUSH that meets the invariant of
steps, and
the step answers. -/
theorem witness_StepInv_beforePush :
    StepInv (start 0x10 [(0x10, 0x0D)]) ∧ nextWith (step (start 0x10 [(0x10, 0x0D)])) (fun _ => true) = true where
  left :=
    { tickInv :=
        { cfgWellFormed := by decide
          memWf := by decide
          spInRange := by decide
          stepInRange := by decide
          flagsReserved := by decide
          aluFlagsReserved := by decide
          aluFlagsAbsent := fun _ => rfl
          aluSettled := rfl
          bufferCurrent := fun h => absurd rfl h
          storeAddress := fun h => nomatch h
          withinMicrocode := by decide
          undefinedStops := by decide
          haltedByHlt := by decide
          faultPrecise := fun _ h => nomatch h }
      atBoundary := fun _ => rfl }
  right := by decide

/-- Addresses at both ends of the program region. -/
theorem witness_ProgramRegionIsNeverWritten :
    (0x00 : Byte).toNat < 256 - (start 0 []).cfg.stackSize ∧ (0xEF : Byte).toNat < 256 - (start 0 []).cfg.stackSize := by
  decide

theorem witness_StepRunsTheDecodedInstruction :
    Running (start 0 [(0x00, 0x12)]) ∧ (start 0 [(0x00, 0x12)]).stepCtr = 0 ∧
    decode (fetchBytes (start 0 [(0x00, 0x12)])) = .ok (.movba, [0x00]) := ⟨⟨rfl, rfl⟩, rfl, rfl⟩

/-- An instruction boundary, and the last step of a run in rom_literal mode. -/
theorem witness_StepIsARunOfTicks :
    ((start 0 []).cfg.wellFormed = true ∧ Running (start 0 []) ∧ (start 0 []).stepCtr < (start 0 []).cfg.nSteps) ∧
    ((literalStart.setStepCtr 5).cfg.wellFormed = true ∧ Running (literalStart.setStepCtr 5) ∧
      (literalStart.setStepCtr 5).stepCtr < (literalStart.setStepCtr 5).cfg.nSteps) :=
  ⟨⟨rfl, ⟨rfl, rfl⟩, by decide⟩, rfl, ⟨rfl, rfl⟩, by decide⟩

/-- The shortest and the longest instruction. -/
theorem witness_InstructionsTakeTheirTicks :
    (Ready (start 0xFF []) ∧ HoldsInstr .nop (start 0xFF [])) ∧
    (Ready (start 0x10 [(0x10, 0x0F), (0x11, 0x40)]) ∧ HoldsInstr (.jsr 0x40) (start 0x10 [(0x10, 0x0F), (0x11, 0x40)])) := by
  constructor <;> exact ⟨ready_of _ (by decide) rfl, by decide⟩

/-- Steps at an instruction boundary that halt, fault, and emit. -/
theorem witness_OnlyHltHaltsAndOnlyOutEmits :
    nextWith (step (start 0 [(0x00, 0x01)])) (fun t => t.halted) = true ∧
    nextWith (step (start 0 [(0x00, 0x13)])) (fun t => t.fault != none) = true ∧
    nextWith (step (start 0 [(0x00, 0x09)])) (fun t => t.output == [0x00]) = true ∧ (start 0 []).stepCtr = 0 := by decide

/-- An image of the least program region is accepted. -/
theorem witness_BootMeetsTheInvariant :
    Config.wellFormed { Config.reference with stackSize := 255 } = true ∧
    boot { Config.reference with stackSize := 255 } (some [0x01]) =
      .ok (State.resetWith { Config.reference with stackSize := 255 } (imageMemory [0x01])) := ⟨rfl, rfl⟩

/-- A length that is right and lengths that are wrong. -/
theorem witness_ImageIsLoadedVerbatimOrRefused :
    Config.wellFormed { Config.reference with stackSize := 255 } = true ∧
    [(0x01 : Byte)].length = 256 - 255 ∧ ([] : List Byte).length ≠ 256 - 255 ∧ [(0x01 : Byte), 0x01].length ≠ 256 - 255 := by
  decide

/-- V10. -/
theorem witness_JumpToItselfNeverEnds :
    Ready (start 0x10 [(0x10, 0x04), (0x11, 0x10)]) ∧ HoldsInstr (.jmp 0x10) (start 0x10 [(0x10, 0x04), (0x11, 0x10)]) :=
  ⟨ready_of _ (by decide) rfl, by decide⟩

theorem witness_FlagHazardOfEachMode :
    nextWith (exec .sub { start 0 [] with a := 0x0A, b := 0x05 }) (fun t => flagZ t.flags) = true ∧
    nextWith (exec .sub { startWb 0 [] with a := 0x05, b := 0x05 }) (fun t => flagZ t.flags) = true ∧
    nextWith (exec .add (start 0 [])) (fun t => flagZ t.flags) = true ∧
    nextWith (exec .xor (start 0 [])) (fun t => flagZ t.flags) = true ∧
    nextWith (exec .and (startWb 0 [])) (fun t => flagZ t.flags) = true ∧
    (start 0 []).cfg.flagsMode = .everyAluCycle ∧ (startWb 0 []).cfg.flagsMode = .atWriteback ∧ (start 0 []).b = 0 := by
  decide

theorem witness_MarAndMbrAreUnobservable : Running (start 0 []) ∧ (start 0 []).stepCtr = 0 := ⟨⟨rfl, rfl⟩, rfl⟩

/-- Flags that differ in bits 3 and 4 only. -/
theorem witness_ParityIsUnobservable :
    Running (start 0 []) ∧ (start 0 []).stepCtr = 0 ∧ flagC 0b11000 = flagC (start 0 []).flags ∧
    flagZ 0b11000 = flagZ (start 0 []).flags ∧ flagN 0b11000 = flagN (start 0 []).flags :=
  ⟨⟨rfl, rfl⟩, rfl, rfl, rfl, rfl⟩

end Sys2Proof.Tests
end

section
/-! PROOF. The memory access of one tick (R39): the two fields it can touch, as the phases before it leave MAR and MBR. -/

namespace Sys2Proof.Machine

/-- Without bus contention a tick runs phases 3 to 6 (R70, R73). -/
theorem tickWord_of_at_most_one_driver {word : ControlWord} (h : (assertedDrivers word).length ≤ 1) (s : State) :
    tickWord word s = afterBusOut word (busValue (assertedDrivers word) s) s :=
  if_neg (by omega)

/-- Of the phases after bus-out, only bus-in and the memory access decide what memory holds. -/
theorem afterBusOut_mem (word : ControlWord) (bus : Byte) (s : State) :
    (afterBusOut word bus s).mem =
      if asserts word .memWe then s.mem.write (busIn word bus s).mar (busIn word bus s).mbr else s.mem := by
  simp [afterBusOut]

/-- Of the phases after bus-out, only bus-in and the memory access decide what MBR holds. -/
theorem afterBusOut_mbr (word : ControlWord) (bus : Byte) (s : State) :
    (afterBusOut word bus s).mbr =
      if asserts word .memWe then (busIn word bus s).mbr else s.mem.read (busIn word bus s).mar := by
  simp [afterBusOut]

/-- Settles O12: a case split on MEM_WE, each case read off from what the phases after bus-out leave in memory and MBR. -/
theorem eachTickAccessesMemoryOnce : Obligations.EachTickAccessesMemoryOnce := by
  intro word s hdrivers bus mar mbr
  rw [tickWord_of_at_most_one_driver hdrivers]
  refine ⟨fun hwrite => ⟨fun a => ?_, ?_⟩, fun hread => ⟨?_, ?_⟩⟩
  · rw [afterBusOut_mem, if_pos hwrite]
    exact Memory.read_write s.mem mar a mbr
  · rw [afterBusOut_mbr, if_pos hwrite, busIn_mbr]
  · rw [afterBusOut_mem, hread, if_neg Bool.false_ne_true]
  · rw [afterBusOut_mbr, hread, if_neg Bool.false_ne_true, busIn_mar]

end Sys2Proof.Machine
end


section
/-! PROOF. What one tick leaves in PC and SP (R77, R78): the sequencing utilities act after bus-in, and no later phase
writes either register. -/

namespace Sys2Proof.Machine

/-! The phases after bus-out. -/

/-- PC_INC counts from the PC that bus-in leaves (R77). -/
theorem afterBusOut_pc (word : ControlWord) (bus : Byte) (s : State) :
    (afterBusOut word bus s).pc =
      if asserts word .pcInc then (if asserts word .pcIn then bus else s.pc) + 1
      else if asserts word .pcIn then bus else s.pc := by
  simp [afterBusOut]

/-- Only SP_INC and SP_DEC decide what SP becomes; the bus does not (R78). -/
theorem afterBusOut_sp (word : ControlWord) (bus : Byte) (s : State) :
    (afterBusOut word bus s).sp = nextSp word s.cfg s.sp := by
  simp [afterBusOut]

theorem afterBusOut_fault (word : ControlWord) (bus : Byte) (s : State) : (afterBusOut word bus s).fault = s.fault := by
  simp [afterBusOut]

/-! The stack pointer's arithmetic (R28, R78). -/

/-- `spDecremented` adds STACK_SIZE before it subtracts; as integers that is the remainder of SP − 1 (R28). -/
theorem spDecremented_cast {cfg : Config} (sp : Nat) (h : 1 ≤ cfg.stackSize) :
    (spDecremented cfg sp : Int) = ((sp : Int) - 1) % (cfg.stackSize : Int) := by
  have hshift : ((sp + cfg.stackSize - 1 : Nat) : Int) = ((sp : Int) - 1) + cfg.stackSize := by omega
  rw [spDecremented, Int.natCast_mod, hshift, Int.add_emod_right]

/-- In range, the decrement undoes the increment, wrapped or not. -/
theorem spDecremented_spIncremented {cfg : Config} {sp : Nat} (h : sp < cfg.stackSize) :
    spDecremented cfg (spIncremented cfg sp) = sp := by
  unfold spDecremented spIncremented
  by_cases hlast : sp + 1 = cfg.stackSize
  · rw [hlast, Nat.mod_self, Nat.zero_add, Nat.mod_eq_of_lt (by omega)]
    omega
  · have hkeep : sp + 1 + cfg.stackSize - 1 = sp + cfg.stackSize := by omega
    rw [Nat.mod_eq_of_lt (show sp + 1 < cfg.stackSize by omega), hkeep, Nat.add_mod_right, Nat.mod_eq_of_lt h]

/-- A word that asserts both SP_INC and SP_DEC, or neither, leaves SP in range as it was (R78). -/
theorem nextSp_of_inc_eq_dec {word : ControlWord} {cfg : Config} {sp : Nat} (h : sp < cfg.stackSize)
    (hboth : asserts word .spInc = asserts word .spDec) : nextSp word cfg sp = sp := by
  cases hdec : asserts word .spDec with
  | false => simp [nextSp, hboth, hdec]
  | true => simpa [nextSp, hboth, hdec] using spDecremented_spIncremented h

/-- No word of the ROM moves SP both ways (R67 (i), R78). -/
theorem rom_not_spInc_and_spDec (opcode : Byte) (step : Nat) (flags : FlagWord) :
    ¬(asserts (rom opcode step flags) .spInc = true ∧ asserts (rom opcode step flags) .spDec = true) := by
  have hword := rom_mem opcode step flags
  generalize rom opcode step flags = word at hword ⊢
  -- one closed case for each word that the ROM can hold
  fin_cases hword <;> decide

/-! The obligations. -/

/-- Settles O13: 8-bit addition is addition modulo 256, and the phases after bus-out raise no fault. -/
theorem pcIncrementWraps : Obligations.PcIncrementWraps := by
  intro word s hdrivers hinc
  rw [tickWord_of_le hdrivers]
  refine ⟨?_, afterBusOut_fault _ _ s⟩
  rw [afterBusOut_pc, if_pos hinc]
  exact BitVec.toNat_add _ 1

/-- Settles O14: the three cases of `nextSp`, and the list of the ROM's words. -/
theorem stackPointerWrapsWithinStack : Obligations.StackPointerWrapsWithinStack := by
  refine ⟨fun word s hdrivers hcfg hsp => ?_, rom_not_spInc_and_spDec⟩
  obtain ⟨-, hsize, -⟩ := (Config.wellFormed_iff s.cfg).mp hcfg
  rw [tickWord_of_le hdrivers, afterBusOut_sp]
  refine ⟨fun hinc hdec => ?inc, fun hinc hdec => ?dec, nextSp_of_inc_eq_dec hsp⟩
  case inc => simp [nextSp, hinc, hdec, spIncremented]
  case dec => simpa [nextSp, hinc, hdec] using spDecremented_cast s.sp hsize

end Sys2Proof.Machine
end

section
/-! PROOF. An instruction from its boundary on: the step that decodes it, the two ticks of its fetch, and the ticks of
its execute words (R64, R69). Nothing here asks which instruction it is. -/

namespace Sys2Proof.Machine

variable {i : Instr} {s t : State}

/-- The bytes of an instruction decode to it, whatever follows them (R49). -/
theorem decode_encode_append (i : Instr) (rest : List Byte) : decode (encode i ++ rest) = .ok (i, rest) := by
  rcases opcodeForm_opcode i with ⟨hoperand, hform⟩ | ⟨operand, withOperand, hoperand, hinstr, hform⟩
  · simp [decode, encode, hoperand, hform]
  · simp [decode, encode, hoperand, hform, hinstr]

theorem read_pc_of_holdsInstr (hholds : HoldsInstr i s) : s.mem.read s.pc = i.opcode := by
  obtain ⟨rest, hbytes⟩ := hholds
  exact (List.cons.inj hbytes).1.symm

theorem step_of_holdsInstr (hrunning : Running s) (hstep : s.stepCtr = 0) (hholds : HoldsInstr i s) :
    step s = exec i s := by
  obtain ⟨rest, hbytes⟩ := hholds
  simp [step, hrunning.noFault, hrunning.notHalted, hstep, ← hbytes, decode_encode_append]

/-! The state between the fetch of an instruction and its execute words. -/

/-- What the two ticks of the fetch leave (`fetch_ticks`): the ALU phase of step 1 has run with the new opcode in IR. -/
def executeStart (i : Instr) (s : State) : State := aluPhase ((fetchInstr i.opcode s).setStepCtr 2)

@[simp] theorem executeStart_ir : (executeStart i s).ir = i.opcode := by simp [executeStart]
@[simp] theorem executeStart_stepCtr : (executeStart i s).stepCtr = 2 := by simp [executeStart]

theorem running_executeStart (hrunning : Running s) : Running (executeStart i s) :=
  ⟨by simp [executeStart, hrunning.noFault], by simp [executeStart, hrunning.notHalted]⟩

/-- For an opcode that is no ALU opcode the second ALU phase of the fetch writes nothing (R82). -/
theorem executeStart_of_no_aluOp (h : aluOpOf i.opcode = none) :
    executeStart i s = (fetchInstr i.opcode s).setStepCtr 2 :=
  aluPhase_of_none (by simpa using h)

/-- The first execute tick follows the ROM: the opcode of an instruction is never undefined (R72). -/
theorem runningTick_executeStart :
    runningTick (executeStart i s) = tickWord (rom i.opcode 2 (executeStart i s).flags) (executeStart i s) := by
  have hvalid : validOpcode (executeStart i s).ir = true := by simpa using validOpcode_opcode i
  rw [runningTick_of_rom (.inr hvalid), executeStart_ir, executeStart_stepCtr]

/-- The fetch of the instruction at PC: where its first tick stands, and where its second one ends. -/
theorem fetch_of_holdsInstr (hready : Ready s) (hholds : HoldsInstr i s) :
    runningTick (runningTick s) = executeStart i s ∧ (runningTick s).stepCtr = 1 ∧ Running (runningTick s) := by
  obtain ⟨hsteps, -, -⟩ := (Config.wellFormed_iff s.cfg).mp hready.cfgWellFormed
  have hfetch := fetch_ticks hready.running (by omega) hready.atFetch
  rwa [read_pc_of_holdsInstr hholds] at hfetch

theorem ticks_add_two_of_holdsInstr (n : Nat) (hready : Ready s) (hholds : HoldsInstr i s) :
    ticks (n + 2) s = ticks n (executeStart i s) := by
  obtain ⟨hfetched, -, hrunning⟩ := fetch_of_holdsInstr hready hholds
  rw [ticks_succ (n + 1) hready.running, ticks_succ n hrunning, hfetched]

/-- To follow an instruction tick by tick it is enough to follow its execute words from `executeStart`. -/
theorem ticksTo_of_execute_ticks {n : Nat} (hready : Ready s) (hholds : HoldsInstr i s) (hexec : exec i s = .next t)
    (hticks : ticks n (executeStart i s) = .next t) (hend : t.stepCtr = 0)
    (hprogress : ∀ k, 0 < k → k < n →
      ∃ u, ticks k (executeStart i s) = .next u ∧ u.stepCtr = k + 2 ∧ Running u) :
    TicksTo (n + 2) s t where
  stepAnswers := (step_of_holdsInstr hready.running hready.atFetch hholds).trans hexec
  ticksAnswer := (ticks_add_two_of_holdsInstr n hready hholds).trans hticks
  endsAtFetch := hend
  inProgress k hpos hlt := by
    obtain ⟨-, hstep, hrunning⟩ := fetch_of_holdsInstr hready hholds
    match k with
    | 1 => exact ⟨runningTick s, ticks_succ 0 hready.running, hstep, hrunning⟩
    | k + 2 =>
      rw [ticks_add_two_of_holdsInstr k hready hholds]
      rcases Nat.eq_zero_or_pos k with rfl | hk
      · exact ⟨executeStart i s, rfl, executeStart_stepCtr, running_executeStart hready.running⟩
      · exact hprogress k hk (by omega)

/-- An instruction of one execute word takes three ticks (R141). -/
theorem ticksTo_three (hready : Ready s) (hholds : HoldsInstr i s) (hexec : exec i s = .next t)
    (htick : runningTick (executeStart i s) = t) (hend : t.stepCtr = 0) : TicksTo 3 s t :=
  ticksTo_of_execute_ticks (n := 1) hready hholds hexec
    (by rw [ticks_succ 0 (running_executeStart hready.running), htick, ticks]) hend (by omega)

end Sys2Proof.Machine
end


section
/-! PROOF. NOP (R85). -/

namespace Sys2Proof.Machine

/-- The execute word of NOP, whatever the flags (R66). -/
theorem rom_nop (flags : FlagWord) : rom 0x00 2 flags = wordNop := rfl

/-- The execute tick of NOP refreshes MBR with the opcode byte that it holds already, and resets STEP (R39, R85). -/
theorem runningTick_executeStart_nop {s : State} (hholds : HoldsInstr .nop s) :
    runningTick (executeStart .nop s) = endInstr (fetchInstr Instr.nop.opcode s) := by
  have hstart : executeStart .nop s = (fetchInstr Instr.nop.opcode s).setStepCtr 2 := executeStart_of_no_aluOp rfl
  have hmbr : (executeStart .nop s).mem.read (executeStart .nop s).mar = (executeStart .nop s).mbr := by
    simpa [hstart] using read_pc_of_holdsInstr hholds
  calc runningTick (executeStart .nop s)
      = tickWord wordNop (executeStart .nop s) := runningTick_executeStart
    _ = aluPhase ((executeStart .nop s).setStepCtr 0) := by rw [tickWord_wordNop, hmbr, State.setMbr_self]
    _ = (executeStart .nop s).setStepCtr 0 := aluPhase_of_none (by simp; rfl)
    _ = endInstr (fetchInstr Instr.nop.opcode s) := by rw [hstart, State.setStepCtr_setStepCtr, endInstr]

/-- Settles O23: NOP is its fetch and a reset of STEP, as a meaning and as three ticks. -/
theorem nopOnlyFetches : Obligations.NopOnlyFetches := by
  refine ⟨rfl, fun flags => (rom_nop flags).trans wordNop_eq, fun s hsettled => ?_⟩
  intro t
  have hfetch : endInstr (fetchInstr Instr.nop.opcode s) = t := by
    rw [fetchInstr_of_settled _ hsettled]
    rfl
  have hexec : exec .nop s = .next t := congrArg Host.Outcome.next hfetch
  refine ⟨hexec, fun hready hholds => ?_⟩
  exact ticksTo_three hready hholds hexec ((runningTick_executeStart_nop hholds).trans hfetch) rfl

end Sys2Proof.Machine
end

section
/-! PROOF. Execute words one after another (R69), and the operand byte of a two-byte instruction. Where the
first execute word is PC_OUT | MAR_IN, it puts that byte in MBR, and its address in MAR. -/

namespace Sys2Proof.Machine

variable {i : Instr} {operand : Byte} {s t u : State}

/-- STEP advances without a wrap while a step is left (R76). -/
theorem advanced_of_lt (h : u.stepCtr + 1 < u.cfg.nSteps) : advanced u = u.stepCtr + 1 := Nat.mod_eq_of_lt h

/-- Every execute tick follows the ROM: the opcode of an instruction is never undefined (R72). -/
theorem runningTick_of_ir (hir : u.ir = i.opcode) :
    runningTick u = tickWord (rom i.opcode u.stepCtr u.flags) u := by
  have hvalid : validOpcode u.ir = true := hir ▸ validOpcode_opcode i
  rw [runningTick_of_rom (.inr hvalid), hir]

/-- An instruction of three execute words takes five ticks (R141). -/
theorem ticksTo_five {u₃ u₄ : State} (hready : Ready s) (hholds : HoldsInstr i s) (hexec : exec i s = .next t)
    (hfirst : runningTick (executeStart i s) = u₃) (hstep₃ : u₃.stepCtr = 3) (hrunning₃ : Running u₃)
    (hsecond : runningTick u₃ = u₄) (hstep₄ : u₄.stepCtr = 4) (hrunning₄ : Running u₄)
    (hlast : runningTick u₄ = t) (hend : t.stepCtr = 0) : TicksTo 5 s t := by
  have hticks (n : Nat) : ticks (n + 1) (executeStart i s) = ticks n u₃ := by
    rw [ticks_succ n (running_executeStart hready.running), hfirst]
  have hticks₃ (n : Nat) : ticks (n + 1) u₃ = ticks n u₄ := by rw [ticks_succ n hrunning₃, hsecond]
  refine ticksTo_of_execute_ticks (n := 3) hready hholds hexec ?_ hend fun k hpos hlt => ?_
  · rw [hticks, hticks₃, ticks_succ 0 hrunning₄, hlast, ticks]
  · match k with
    | 1 => exact ⟨u₃, hticks 0, hstep₃, hrunning₃⟩
    | 2 => exact ⟨u₄, (hticks 1).trans (hticks₃ 0), hstep₄, hrunning₄⟩

/-- No ALU instruction has an operand byte (R94), so the ALU phase is idle while an operand is fetched (R82). -/
theorem aluOpOf_opcode_of_operand (hoperand : i.operand? = some operand) : aluOpOf i.opcode = none := by
  cases i <;> simp [Instr.operand?] at hoperand <;> rfl

/-- The operand byte stands behind the opcode byte (R49). -/
theorem read_operand_of_holdsInstr (hoperand : i.operand? = some operand) (hholds : HoldsInstr i s) :
    s.mem.read (s.pc + 1) = operand := by
  obtain ⟨rest, hbytes⟩ := hholds
  simp only [encode, hoperand] at hbytes
  exact (List.cons.inj (List.cons.inj hbytes).2).1.symm

/-- After the word PC_OUT | MAR_IN at step 2: MAR holds the address of the operand byte and MBR the byte. -/
def operandAddressed (i : Instr) (operand : Byte) (s : State) : State :=
  (((fetchInstr i.opcode s).setMar (s.pc + 1)).setMbr operand).setStepCtr 3

@[simp] theorem operandAddressed_ir : (operandAddressed i operand s).ir = i.opcode := by simp [operandAddressed]
@[simp] theorem operandAddressed_stepCtr : (operandAddressed i operand s).stepCtr = 3 := rfl
@[simp] theorem operandAddressed_cfg : (operandAddressed i operand s).cfg = s.cfg := by simp [operandAddressed]
@[simp] theorem operandAddressed_pc : (operandAddressed i operand s).pc = s.pc + 1 := by simp [operandAddressed]
@[simp] theorem operandAddressed_mbr : (operandAddressed i operand s).mbr = operand := rfl
@[simp] theorem operandAddressed_mem : (operandAddressed i operand s).mem = s.mem := by simp [operandAddressed]

theorem running_operandAddressed (hrunning : Running s) : Running (operandAddressed i operand s) :=
  ⟨by simp [operandAddressed, hrunning.noFault], by simp [operandAddressed, hrunning.notHalted]⟩

theorem runningTick_executeStart_pcToMar (hoperand : i.operand? = some operand) (hready : Ready s)
    (hholds : HoldsInstr i s) (hword : rom i.opcode 2 (executeStart i s).flags = wordPcToMar) :
    runningTick (executeStart i s) = operandAddressed i operand s := by
  obtain ⟨hsteps, -, -⟩ := (Config.wellFormed_iff s.cfg).mp hready.cfgWellFormed
  have hidle : aluOpOf i.opcode = none := aluOpOf_opcode_of_operand hoperand
  have hstart : executeStart i s = (fetchInstr i.opcode s).setStepCtr 2 := executeStart_of_no_aluOp hidle
  have hadvanced : advanced (executeStart i s) = 3 := by
    rw [advanced_of_lt, executeStart_stepCtr]
    simp [hstart]
    omega
  have hpc : (executeStart i s).pc = s.pc + 1 := by simp [hstart]
  have hread : (executeStart i s).mem.read (s.pc + 1) = operand := by
    simpa [hstart] using read_operand_of_holdsInstr hoperand hholds
  calc runningTick (executeStart i s)
      = aluPhase ((((executeStart i s).setMar (s.pc + 1)).setMbr operand).setStepCtr 3) := by
        rw [runningTick_executeStart, hword, tickWord_wordPcToMar, hadvanced, hpc, hread]
    _ = (((executeStart i s).setMar (s.pc + 1)).setMbr operand).setStepCtr 3 := aluPhase_of_none (by simpa using hidle)
    _ = operandAddressed i operand s := by rw [hstart]; rfl

end Sys2Proof.Machine
end

section
/-! PROOF. The loads (R87, R88). LDA and LDB differ in their last execute word only. -/

namespace Sys2Proof.Machine

variable {i : Instr} {addr : Byte} {s t u : State}

/-- The execute words of LDA and of LDB, whatever the flags (R66). -/
theorem executeWords_lda (addr : Byte) (flags : FlagWord) :
    executeWords (Instr.lda addr).opcode flags = [wordPcToMar, wordOperandToMar, wordMemToA] := rfl
theorem executeWords_ldb (addr : Byte) (flags : FlagWord) :
    executeWords (Instr.ldb addr).opcode flags = [wordPcToMar, wordOperandToMar, wordMemToB] := rfl

/-- After the word MEM_OUT | MAR_IN | PC_INC at step 3: the byte at the absolute address is in MBR. -/
def operandLoaded (i : Instr) (addr : Byte) (s : State) : State :=
  (loadOperand addr (fetchInstr i.opcode s)).setStepCtr 4

@[simp] theorem operandLoaded_ir : (operandLoaded i addr s).ir = i.opcode := by simp [operandLoaded]
@[simp] theorem operandLoaded_stepCtr : (operandLoaded i addr s).stepCtr = 4 := rfl
@[simp] theorem operandLoaded_mbr : (operandLoaded i addr s).mbr = s.mem.read addr := by simp [operandLoaded]

/-- MAR and MBR agree already, so the memory access of the last word changes nothing (R39). -/
theorem operandLoaded_read_mar :
    (operandLoaded i addr s).mem.read (operandLoaded i addr s).mar = (operandLoaded i addr s).mbr := by
  simp [operandLoaded]

theorem running_operandLoaded (hrunning : Running s) : Running (operandLoaded i addr s) :=
  ⟨by simp [operandLoaded, hrunning.noFault], by simp [operandLoaded, hrunning.notHalted]⟩

theorem runningTick_operandAddressed_operandToMar (hoperand : i.operand? = some addr) (hready : Ready s)
    (hword : rom i.opcode 3 (operandAddressed i addr s).flags = wordOperandToMar) :
    runningTick (operandAddressed i addr s) = operandLoaded i addr s := by
  obtain ⟨hsteps, -, -⟩ := (Config.wellFormed_iff s.cfg).mp hready.cfgWellFormed
  have hadvanced : advanced (operandAddressed i addr s) = 4 := advanced_of_lt (by simp; omega)
  have hloaded : ((((operandAddressed i addr s).setMar addr).setPc (s.pc + 1 + 1)).setMbr
      (s.mem.read addr)).setStepCtr 4 = operandLoaded i addr s := by
    simp only [operandLoaded, loadOperand, absoluteByte, fetchInstr_pc, fetchInstr_mem]
    rfl
  have hidle : aluOpOf (operandLoaded i addr s).ir = none := by simpa using aluOpOf_opcode_of_operand hoperand
  rw [runningTick_of_ir operandAddressed_ir, operandAddressed_stepCtr, hword, tickWord_wordOperandToMar, hadvanced,
    operandAddressed_mbr, operandAddressed_pc, operandAddressed_mem, hloaded, aluPhase_of_none hidle]

/-- The last word of a load runs with the loaded byte in MBR. -/
theorem runningTick_operandLoaded {last : ControlWord}
    (hwords : ∀ flags, executeWords i.opcode flags = [wordPcToMar, wordOperandToMar, last]) :
    runningTick (operandLoaded i addr s) = tickWord last (operandLoaded i addr s) := by
  rw [runningTick_of_ir operandLoaded_ir, operandLoaded_stepCtr]
  simp [rom, hwords]

/-- Whatever the last word of a load does, the four ticks before it are the same. -/
theorem ticksTo_five_of_load {last : ControlWord} (hoperand : i.operand? = some addr)
    (hwords : ∀ flags, executeWords i.opcode flags = [wordPcToMar, wordOperandToMar, last])
    (hready : Ready s) (hholds : HoldsInstr i s) (hexec : exec i s = .next t)
    (hlast : runningTick (operandLoaded i addr s) = t) (hend : t.stepCtr = 0) : TicksTo 5 s t :=
  ticksTo_five hready hholds hexec
    (runningTick_executeStart_pcToMar hoperand hready hholds (by simp [rom, hwords]))
    operandAddressed_stepCtr (running_operandAddressed hready.running)
    (runningTick_operandAddressed_operandToMar hoperand hready (by simp [rom, hwords]))
    operandLoaded_stepCtr (running_operandLoaded hready.running) hlast hend

/-! The last words write the loaded byte to their register and reset STEP; no ALU opcode is in IR, and MBR is fresh. -/

theorem tickWord_wordMemToA_of_idle (hidle : aluOpOf u.ir = none) (hread : u.mem.read u.mar = u.mbr) :
    tickWord wordMemToA u = (u.setA u.mbr).setStepCtr 0 := by
  rw [tickWord_wordMemToA, hread]
  exact aluPhase_of_none (by simpa using hidle)

theorem tickWord_wordMemToB_of_idle (hidle : aluOpOf u.ir = none) (hread : u.mem.read u.mar = u.mbr) :
    tickWord wordMemToB u = (u.setB u.mbr).setStepCtr 0 := by
  rw [tickWord_wordMemToB, hread]
  exact aluPhase_of_none (by simpa using hidle)

/-- The last tick of LDA moves the loaded byte from MBR to A. -/
theorem runningTick_operandLoaded_lda : runningTick (operandLoaded (.lda addr) addr s) =
    endInstr ((loadOperand addr (fetchInstr (Instr.lda addr).opcode s)).setA (s.mem.read addr)) := by
  calc runningTick (operandLoaded (.lda addr) addr s)
      = tickWord wordMemToA (operandLoaded (.lda addr) addr s) := runningTick_operandLoaded (executeWords_lda addr)
    _ = ((operandLoaded (.lda addr) addr s).setA (operandLoaded (.lda addr) addr s).mbr).setStepCtr 0 :=
        tickWord_wordMemToA_of_idle (by rw [operandLoaded_ir]; rfl) operandLoaded_read_mar
    _ = endInstr ((loadOperand addr (fetchInstr (Instr.lda addr).opcode s)).setA (s.mem.read addr)) := by
        rw [operandLoaded_mbr]; rfl

/-- The last tick of LDB moves the loaded byte from MBR to B. -/
theorem runningTick_operandLoaded_ldb : runningTick (operandLoaded (.ldb addr) addr s) =
    endInstr ((loadOperand addr (fetchInstr (Instr.ldb addr).opcode s)).setB (s.mem.read addr)) := by
  calc runningTick (operandLoaded (.ldb addr) addr s)
      = tickWord wordMemToB (operandLoaded (.ldb addr) addr s) := runningTick_operandLoaded (executeWords_ldb addr)
    _ = ((operandLoaded (.ldb addr) addr s).setB (operandLoaded (.ldb addr) addr s).mbr).setStepCtr 0 :=
        tickWord_wordMemToB_of_idle (by rw [operandLoaded_ir]; rfl) operandLoaded_read_mar
    _ = endInstr ((loadOperand addr (fetchInstr (Instr.ldb addr).opcode s)).setB (s.mem.read addr)) := by
        rw [operandLoaded_mbr]; rfl

/-- The meanings of the loads: the byte that goes to the register is the byte of the memory before the instruction. -/
theorem exec_lda : exec (.lda addr) s =
    .next (endInstr ((loadOperand addr (fetchInstr (Instr.lda addr).opcode s)).setA (s.mem.read addr))) := by
  simp [exec, execLda, absoluteByte]

theorem exec_ldb : exec (.ldb addr) s =
    .next (endInstr ((loadOperand addr (fetchInstr (Instr.ldb addr).opcode s)).setB (s.mem.read addr))) := by
  simp [exec, execLdb, absoluteByte]

/-- From a settled state the fetch and the operand words of a load change PC, MAR, MBR and IR only (R106). -/
theorem loadOperand_fetchInstr_of_settled {opcode : Byte} (hsettled : AluSettled s) :
    loadOperand addr (fetchInstr opcode s) =
      { s with pc := s.pc + 2, mar := addr, mbr := s.mem.read addr, ir := opcode } := by
  have hpc : s.pc + 1 + 1 = s.pc + 2 := BitVec.add_assoc s.pc 1 1
  rw [loadOperand, absoluteByte, fetchInstr_pc, fetchInstr_mem, hpc, fetchInstr_of_settled opcode hsettled]
  rfl

/-- Settles O25: LDA and LDB differ in the register that the last word writes; the ticks before it are shared. -/
theorem loadsReadTheAbsoluteAddress : Obligations.LoadsReadTheAbsoluteAddress := by
  refine fun addr => ⟨rfl, rfl, fun flags => ?words, fun s hsettled => ?states⟩
  case words =>
    exact ⟨wordPcToMar_eq, wordOperandToMar_eq, wordMemToA_eq, wordPcToMar_eq, wordOperandToMar_eq, wordMemToB_eq⟩
  case states =>
    intro tA tB
    have hexecA : exec (.lda addr) s = .next tA := by
      rw [exec_lda, loadOperand_fetchInstr_of_settled hsettled]; rfl
    have hlastA : runningTick (operandLoaded (.lda addr) addr s) = tA := by
      rw [runningTick_operandLoaded_lda, loadOperand_fetchInstr_of_settled hsettled]; rfl
    have hexecB : exec (.ldb addr) s = .next tB := by
      rw [exec_ldb, loadOperand_fetchInstr_of_settled hsettled]; rfl
    have hlastB : runningTick (operandLoaded (.ldb addr) addr s) = tB := by
      rw [runningTick_operandLoaded_ldb, loadOperand_fetchInstr_of_settled hsettled]; rfl
    refine ⟨hexecA, fun hready hholds => ?lda, hexecB, fun hready hholds => ?ldb⟩
    case lda =>
      exact ticksTo_five_of_load rfl (executeWords_lda addr) hready hholds hexecA hlastA rfl
    case ldb =>
      exact ticksTo_five_of_load rfl (executeWords_ldb addr) hready hholds hexecB hlastB rfl

end Sys2Proof.Machine
end

section
/-! PROOF. A jump that is taken (R89, R90): the operand byte goes to PC. The ticks are followed for every instruction
whose execute words are `jumpWords` at the flags of the fetched state; JMP is the one where they are so at all flags. -/

namespace Sys2Proof.Machine

variable {i : Instr} {target : Byte} {s t : State}

/-- An instruction of two execute words takes four ticks (R141). -/
theorem ticksTo_four {u₃ : State} (hready : Ready s) (hholds : HoldsInstr i s) (hexec : exec i s = .next t)
    (hfirst : runningTick (executeStart i s) = u₃) (hstep₃ : u₃.stepCtr = 3) (hrunning₃ : Running u₃)
    (hlast : runningTick u₃ = t) (hend : t.stepCtr = 0) : TicksTo 4 s t := by
  have hticks (n : Nat) : ticks (n + 1) (executeStart i s) = ticks n u₃ := by
    rw [ticks_succ n (running_executeStart hready.running), hfirst]
  refine ticksTo_of_execute_ticks (n := 2) hready hholds hexec ?_ hend fun k hpos hlt => ?_
  · rw [hticks, ticks_succ 0 hrunning₃, hlast, ticks]
  · obtain rfl : k = 1 := by omega
    exact ⟨u₃, hticks 0, hstep₃, hrunning₃⟩

/-! The flags that select the execute words: no tick from the fetch to the last word writes them again. -/

theorem executeStart_flags_of_operand (hoperand : i.operand? = some target) :
    (executeStart i s).flags = (aluPhase s).flags := by
  simp [executeStart_of_no_aluOp (aluOpOf_opcode_of_operand hoperand)]

@[simp] theorem operandAddressed_flags : (operandAddressed i target s).flags = (aluPhase s).flags := by
  simp [operandAddressed]

/-- MAR holds the address of the byte in MBR, so the memory access of the next word changes nothing (R39). -/
theorem operandAddressed_read_mar (hoperand : i.operand? = some target) (hholds : HoldsInstr i s) :
    (operandAddressed i target s).mem.read (operandAddressed i target s).mar = target := by
  rw [operandAddressed_mem]
  exact read_operand_of_holdsInstr hoperand hholds

/-- The word MEM_OUT | PC_IN | STEP_RST at step 3 moves the operand byte from MBR to PC and ends the instruction. -/
theorem runningTick_operandAddressed_memToPc (hoperand : i.operand? = some target) (hholds : HoldsInstr i s)
    (hword : rom i.opcode 3 (operandAddressed i target s).flags = wordMemToPc) :
    runningTick (operandAddressed i target s) = endInstr (takeJump target (fetchInstr i.opcode s)) := by
  have hidle : aluOpOf i.opcode = none := aluOpOf_opcode_of_operand hoperand
  have hjumped : (((operandAddressed i target s).setPc target).setMbr target).setStepCtr 0 =
      endInstr (takeJump target (fetchInstr i.opcode s)) := by
    simp only [endInstr, takeJump, fetchInstr_pc]
    rfl
  calc runningTick (operandAddressed i target s)
      = tickWord wordMemToPc (operandAddressed i target s) := by
        rw [runningTick_of_ir operandAddressed_ir, operandAddressed_stepCtr, hword]
    _ = aluPhase (endInstr (takeJump target (fetchInstr i.opcode s))) := by
        rw [tickWord_wordMemToPc, operandAddressed_mbr, operandAddressed_read_mar hoperand hholds, hjumped]
    _ = endInstr (takeJump target (fetchInstr i.opcode s)) := aluPhase_of_none (by simpa using hidle)

/-- A jump that is taken: two ticks of fetch, one that addresses the operand byte and one that loads it into PC. -/
theorem ticksTo_four_of_jumpWords (hoperand : i.operand? = some target)
    (hwords : executeWords i.opcode (aluPhase s).flags = jumpWords) (hready : Ready s) (hholds : HoldsInstr i s)
    (hexec : exec i s = .next (endInstr (takeJump target (fetchInstr i.opcode s)))) :
    TicksTo 4 s (endInstr (takeJump target (fetchInstr i.opcode s))) := by
  have hword₂ : rom i.opcode 2 (executeStart i s).flags = wordPcToMar := by
    simp [rom, executeStart_flags_of_operand hoperand, hwords, jumpWords]
  have hword₃ : rom i.opcode 3 (operandAddressed i target s).flags = wordMemToPc := by
    simp [rom, hwords, jumpWords]
  exact ticksTo_four hready hholds hexec (runningTick_executeStart_pcToMar hoperand hready hholds hword₂)
    operandAddressed_stepCtr (running_operandAddressed hready.running)
    (runningTick_operandAddressed_memToPc hoperand hholds hword₃) (endInstr_stepCtr _)

/-- From a settled state a jump that is taken changes PC, MAR, MBR, IR and STEP only (R106). -/
theorem takeJump_fetchInstr_of_settled {opcode : Byte} (hsettled : AluSettled s) :
    endInstr (takeJump target (fetchInstr opcode s)) =
      { s with pc := target, mar := s.pc + 1, mbr := target, ir := opcode, stepCtr := 0 } := by
  rw [takeJump, fetchInstr_pc, fetchInstr_of_settled opcode hsettled]
  rfl

/-- The execute words of JMP, whatever the flags (R66). -/
theorem executeWords_jmp (target : Byte) (flags : FlagWord) :
    executeWords (Instr.jmp target).opcode flags = jumpWords := rfl

theorem exec_jmp :
    exec (.jmp target) s = .next (endInstr (takeJump target (fetchInstr (Instr.jmp target).opcode s))) := rfl

/-- Settles O26: JMP is the jump that is taken at all flags. -/
theorem jmpTransfersControl : Obligations.JmpTransfersControl := by
  refine fun target => ⟨rfl, fun flags => ⟨wordPcToMar_eq, wordMemToPc_eq⟩, fun s hsettled => ?_⟩
  intro t
  have hjump : endInstr (takeJump target (fetchInstr (Instr.jmp target).opcode s)) = t :=
    takeJump_fetchInstr_of_settled hsettled
  rw [← hjump]
  exact ⟨exec_jmp, fun hready hholds =>
    ticksTo_four_of_jumpWords rfl (executeWords_jmp target _) hready hholds exec_jmp⟩

end Sys2Proof.Machine
end

section
/-! PROOF. PUSH (R108). The tick that addresses the slot of SP is followed for every instruction whose first execute
word is SP_OUT | MAR_IN and whose opcode is no ALU opcode. -/

namespace Sys2Proof.Machine

variable {i : Instr} {s : State}

/-- At least six steps leave room for STEP to advance from 2 to 3 (R7, R76). -/
theorem advanced_executeStart (hready : Ready s) : advanced (executeStart i s) = 3 := by
  obtain ⟨hsteps, -, -⟩ := (Config.wellFormed_iff s.cfg).mp hready.cfgWellFormed
  have hcfg : (executeStart i s).cfg = s.cfg := by simp [executeStart]
  rw [advanced_of_lt (by rw [executeStart_stepCtr, hcfg]; omega), executeStart_stepCtr]

/-! The stack patterns around a fetch. A stack address depends on the parameters and on SP only, so the fetch and the
end of an instruction keep it (R38). -/

@[simp] theorem pushAddr_fetchInstr (opcode : Byte) (s : State) : pushAddr (fetchInstr opcode s) = pushAddr s := by
  simp [pushAddr]
@[simp] theorem popAddr_fetchInstr (opcode : Byte) (s : State) : popAddr (fetchInstr opcode s) = popAddr s := by
  simp [popAddr]
@[simp] theorem popAddr_endInstr (s : State) : popAddr (endInstr s) = popAddr s := by simp [popAddr]

/-- The push pattern right after the fetch, told from the state before it (R108). -/
theorem pushByte_fetchInstr (opcode value : Byte) (s : State) : pushByte value (fetchInstr opcode s) =
    ((((fetchInstr opcode s).setMar (pushAddr s)).setMbr value).setMem (s.mem.write (pushAddr s) value)).setSp
      (spIncremented s.cfg s.sp) := by
  simp [pushByte]

/-- The pop pattern right after the fetch, told from the state before it (R109). -/
theorem popByte_fetchInstr (opcode : Byte) (s : State) : popByte (fetchInstr opcode s) =
    (((fetchInstr opcode s).setSp (spDecremented s.cfg s.sp)).setMar (popAddr s)).setMbr (s.mem.read (popAddr s)) := by
  simp [popByte]

/-- After the word SP_OUT | MAR_IN at step 2: MAR holds the address of the slot of SP, and MBR the byte that the push is
about to overwrite (R39). -/
def pushAddressed (i : Instr) (s : State) : State :=
  (((fetchInstr i.opcode s).setMar (pushAddr s)).setMbr (s.mem.read (pushAddr s))).setStepCtr 3

@[simp] theorem pushAddressed_cfg : (pushAddressed i s).cfg = s.cfg := by simp [pushAddressed]
@[simp] theorem pushAddressed_a : (pushAddressed i s).a = s.a := by simp [pushAddressed]
@[simp] theorem pushAddressed_mar : (pushAddressed i s).mar = pushAddr s := rfl
@[simp] theorem pushAddressed_ir : (pushAddressed i s).ir = i.opcode := by simp [pushAddressed]
@[simp] theorem pushAddressed_stepCtr : (pushAddressed i s).stepCtr = 3 := rfl
@[simp] theorem pushAddressed_sp : (pushAddressed i s).sp = s.sp := by simp [pushAddressed]
@[simp] theorem pushAddressed_mem : (pushAddressed i s).mem = s.mem := by simp [pushAddressed]

theorem running_pushAddressed (hrunning : Running s) : Running (pushAddressed i s) :=
  ⟨by simp [pushAddressed, hrunning.noFault], by simp [pushAddressed, hrunning.notHalted]⟩

theorem runningTick_executeStart_spToMar (hidle : aluOpOf i.opcode = none) (hready : Ready s)
    (hword : rom i.opcode 2 (executeStart i s).flags = wordSpToMar) :
    runningTick (executeStart i s) = pushAddressed i s := by
  have hstart : executeStart i s = (fetchInstr i.opcode s).setStepCtr 2 := executeStart_of_no_aluOp hidle
  have haddr : stackAddr (executeStart i s).cfg (executeStart i s).sp = pushAddr s := by simp [hstart, pushAddr]
  have hmem : (executeStart i s).mem = s.mem := by simp [hstart]
  calc runningTick (executeStart i s)
      = aluPhase ((((executeStart i s).setMar (pushAddr s)).setMbr (s.mem.read (pushAddr s))).setStepCtr 3) := by
        rw [runningTick_executeStart, hword, tickWord_wordSpToMar, advanced_executeStart hready, haddr, hmem]
    _ = (((executeStart i s).setMar (pushAddr s)).setMbr (s.mem.read (pushAddr s))).setStepCtr 3 :=
        aluPhase_of_none (by simpa using hidle)
    _ = pushAddressed i s := by rw [hstart]; rfl

/-- The execute words of PUSH, whatever the flags (R66). -/
theorem executeWords_push (flags : FlagWord) :
    executeWords Instr.push.opcode flags = [wordSpToMar, wordPushA] := rfl

/-- The word A_OUT | MBR_IN | MEM_WE | SP_INC | STEP_RST at step 3 stores A, moves SP and ends the instruction. -/
theorem runningTick_pushAddressed_push :
    runningTick (pushAddressed .push s) = endInstr (pushByte s.a (fetchInstr Instr.push.opcode s)) := by
  have hpushed : ((((pushAddressed .push s).setMbr s.a).setSp (spIncremented s.cfg s.sp)).setMem
      (s.mem.write (pushAddr s) s.a)).setStepCtr 0 = endInstr (pushByte s.a (fetchInstr Instr.push.opcode s)) := by
    rw [pushByte_fetchInstr]
    simp only [pushAddressed, endInstr, State.setStepCtr, State.setMar, State.setMbr, State.setMem, State.setSp]
  calc runningTick (pushAddressed .push s)
      = tickWord wordPushA (pushAddressed .push s) := by
        rw [runningTick_of_ir pushAddressed_ir, pushAddressed_stepCtr]
        simp [rom, executeWords_push]
    _ = aluPhase (endInstr (pushByte s.a (fetchInstr Instr.push.opcode s))) := by
        rw [tickWord_wordPushA, pushAddressed_a, pushAddressed_cfg, pushAddressed_sp, pushAddressed_mem,
          pushAddressed_mar, hpushed]
    _ = endInstr (pushByte s.a (fetchInstr Instr.push.opcode s)) := aluPhase_of_none (by simp; rfl)

theorem exec_push : exec .push s = .next (endInstr (pushByte s.a (fetchInstr Instr.push.opcode s))) := by
  simp [exec, execPush]

/-- From a settled state the fetch and the push pattern change memory, SP, PC, MAR, MBR and IR only (R106, R108). -/
theorem pushByte_fetchInstr_of_settled {opcode value : Byte} (hsettled : AluSettled s) :
    pushByte value (fetchInstr opcode s) =
      { s with
        mem := s.mem.write (pushAddr s) value, sp := spIncremented s.cfg s.sp, pc := s.pc + 1, mar := pushAddr s,
        mbr := value, ir := opcode } := by
  rw [pushByte_fetchInstr, fetchInstr_of_settled opcode hsettled]
  simp only [State.setMar, State.setMbr, State.setIr, State.setPc, State.setMem, State.setSp]

/-- Settles O30: PUSH is its fetch, a tick that addresses the slot of SP, and a tick that stores A there. -/
theorem pushStoresAndIncrements : Obligations.PushStoresAndIncrements := by
  refine ⟨rfl, fun flags => ⟨wordSpToMar_eq, wordPushA_eq⟩, fun s hsettled => ?_⟩
  intro t
  have hpushed : endInstr (pushByte s.a (fetchInstr Instr.push.opcode s)) = t := by
    rw [pushByte_fetchInstr_of_settled hsettled]
    rfl
  rw [← hpushed]
  refine ⟨exec_push, fun hready hholds => ?_⟩
  exact ticksTo_four hready hholds exec_push
    (runningTick_executeStart_spToMar rfl hready (by simp [rom, executeWords_push]))
    pushAddressed_stepCtr (running_pushAddressed hready.running) runningTick_pushAddressed_push (endInstr_stepCtr _)

end Sys2Proof.Machine
end

section
/-! PROOF. POP (R109), and a PUSH followed by a POP. The two ticks that move SP and address its slot are followed for
every instruction whose first execute words are SP_DEC and SP_OUT | MAR_IN and whose opcode is no ALU opcode. -/

namespace Sys2Proof.Machine

variable {i : Instr} {s : State}

/-- After the word SP_DEC at step 2: MAR is still the address of the opcode byte, so MBR keeps it (R39). -/
def popDecremented (i : Instr) (s : State) : State :=
  ((fetchInstr i.opcode s).setSp (spDecremented s.cfg s.sp)).setStepCtr 3

@[simp] theorem popDecremented_cfg : (popDecremented i s).cfg = s.cfg := by simp [popDecremented]
@[simp] theorem popDecremented_ir : (popDecremented i s).ir = i.opcode := by simp [popDecremented]
@[simp] theorem popDecremented_stepCtr : (popDecremented i s).stepCtr = 3 := rfl
@[simp] theorem popDecremented_sp : (popDecremented i s).sp = spDecremented s.cfg s.sp := rfl
@[simp] theorem popDecremented_mem : (popDecremented i s).mem = s.mem := by simp [popDecremented]

theorem running_popDecremented (hrunning : Running s) : Running (popDecremented i s) :=
  ⟨by simp [popDecremented, hrunning.noFault], by simp [popDecremented, hrunning.notHalted]⟩

theorem runningTick_executeStart_spDec (hidle : aluOpOf i.opcode = none) (hready : Ready s) (hholds : HoldsInstr i s)
    (hword : rom i.opcode 2 (executeStart i s).flags = wordSpDec) :
    runningTick (executeStart i s) = popDecremented i s := by
  have hstart : executeStart i s = (fetchInstr i.opcode s).setStepCtr 2 := executeStart_of_no_aluOp hidle
  have hsp : spDecremented (executeStart i s).cfg (executeStart i s).sp = spDecremented s.cfg s.sp := by simp [hstart]
  have hread : (executeStart i s).mem.read (executeStart i s).mar = i.opcode := by
    simpa [hstart] using read_pc_of_holdsInstr hholds
  calc runningTick (executeStart i s)
      = aluPhase ((((executeStart i s).setSp (spDecremented s.cfg s.sp)).setMbr i.opcode).setStepCtr 3) := by
        rw [runningTick_executeStart, hword, tickWord_wordSpDec, advanced_executeStart hready, hsp, hread]
    _ = (((executeStart i s).setSp (spDecremented s.cfg s.sp)).setMbr i.opcode).setStepCtr 3 :=
        aluPhase_of_none (by simpa using hidle)
    _ = popDecremented i s := by rw [hstart]; rfl

/-- After the word SP_OUT | MAR_IN at step 3: the popped byte is in MBR, and its address in MAR. -/
def popAddressed (i : Instr) (s : State) : State := (popByte (fetchInstr i.opcode s)).setStepCtr 4

@[simp] theorem popAddressed_ir : (popAddressed i s).ir = i.opcode := by simp [popAddressed]
@[simp] theorem popAddressed_stepCtr : (popAddressed i s).stepCtr = 4 := rfl

/-- MAR and MBR agree already, so the memory access of the last word changes nothing (R39). -/
theorem popAddressed_read_mar :
    (popAddressed i s).mem.read (popAddressed i s).mar = (popAddressed i s).mbr := by
  simp [popAddressed]

theorem running_popAddressed (hrunning : Running s) : Running (popAddressed i s) :=
  ⟨by simp [popAddressed, hrunning.noFault], by simp [popAddressed, hrunning.notHalted]⟩

theorem runningTick_popDecremented_spToMar (hidle : aluOpOf i.opcode = none) (hready : Ready s)
    (hword : rom i.opcode 3 (popDecremented i s).flags = wordSpToMar) :
    runningTick (popDecremented i s) = popAddressed i s := by
  obtain ⟨hsteps, -, -⟩ := (Config.wellFormed_iff s.cfg).mp hready.cfgWellFormed
  have hadvanced : advanced (popDecremented i s) = 4 := advanced_of_lt (by simp; omega)
  have haddr : stackAddr (popDecremented i s).cfg (popDecremented i s).sp = popAddr s := by simp [popAddr]
  have haddressed : (((popDecremented i s).setMar (popAddr s)).setMbr (s.mem.read (popAddr s))).setStepCtr 4 =
      popAddressed i s := by
    rw [popAddressed, popByte_fetchInstr]
    rfl
  rw [runningTick_of_ir popDecremented_ir, popDecremented_stepCtr, hword, tickWord_wordSpToMar, hadvanced, haddr,
    popDecremented_mem, haddressed, aluPhase_of_none (by simpa using hidle)]

/-- The execute words of POP, whatever the flags (R66). -/
theorem executeWords_pop (flags : FlagWord) :
    executeWords Instr.pop.opcode flags = [wordSpDec, wordSpToMar, wordMemToA] := rfl

/-- The last tick of POP moves the popped byte from MBR to A, as the last tick of LDA does. -/
theorem runningTick_popAddressed_pop : runningTick (popAddressed .pop s) =
    endInstr ((popByte (fetchInstr Instr.pop.opcode s)).setA (s.mem.read (popAddr s))) := by
  have hmbr : (popAddressed .pop s).mbr = s.mem.read (popAddr s) := by simp [popAddressed]
  calc runningTick (popAddressed .pop s)
      = tickWord wordMemToA (popAddressed .pop s) := by
        rw [runningTick_of_ir popAddressed_ir, popAddressed_stepCtr]
        simp [rom, executeWords_pop]
    _ = ((popAddressed .pop s).setA (popAddressed .pop s).mbr).setStepCtr 0 :=
        tickWord_wordMemToA_of_idle (by rw [popAddressed_ir]; rfl) popAddressed_read_mar
    _ = endInstr ((popByte (fetchInstr Instr.pop.opcode s)).setA (s.mem.read (popAddr s))) := by rw [hmbr]; rfl

theorem exec_pop : exec .pop s =
    .next (endInstr ((popByte (fetchInstr Instr.pop.opcode s)).setA (s.mem.read (popAddr s)))) := by
  simp [exec, execPop]

/-- From a settled state the fetch and the pop pattern change SP, PC, MAR, MBR and IR only (R106, R109). -/
theorem popByte_fetchInstr_of_settled {opcode : Byte} (hsettled : AluSettled s) :
    popByte (fetchInstr opcode s) =
      { s with
        sp := spDecremented s.cfg s.sp, pc := s.pc + 1, mar := popAddr s, mbr := s.mem.read (popAddr s),
        ir := opcode } := by
  rw [popByte_fetchInstr, fetchInstr_of_settled opcode hsettled]
  simp only [State.setMar, State.setMbr, State.setIr, State.setPc, State.setSp]

/-- A pop reads the slot that the push before it stored to, also where SP wrapped between them (R28). -/
theorem popAddr_pushByte {value : Byte} (hsp : s.sp < s.cfg.stackSize) : popAddr (pushByte value s) = pushAddr s := by
  simp [popAddr, pushAddr, spDecremented_spIncremented hsp]

/-- PUSH followed by POP restores A and SP and leaves the pushed byte in its slot (R109). -/
theorem exec_push_then_pop (hsp : s.sp < s.cfg.stackSize) :
    ∃ t u, exec .push s = .next t ∧ exec .pop t = .next u ∧ u.a = s.a ∧ u.sp = s.sp ∧ u.mem = t.mem := by
  refine ⟨_, _, exec_push, exec_pop, ?a, ?sp, ?mem⟩
  case a => simp [popAddr_pushByte (s := fetchInstr Instr.push.opcode s) (by simpa using hsp)]
  case sp => simp [spDecremented_spIncremented hsp]
  case mem => simp

/-- Settles O31: POP is its fetch, a tick that moves SP, a tick that addresses its slot, and the last tick of LDA. -/
theorem popDecrementsAndLoads : Obligations.PopDecrementsAndLoads := by
  refine ⟨rfl, fun flags => ⟨wordSpDec_eq, wordSpToMar_eq, wordMemToA_eq⟩, fun s hsettled => ?state,
    fun s _ hsp => exec_push_then_pop hsp⟩
  case state =>
    intro t
    have hpopped : endInstr ((popByte (fetchInstr Instr.pop.opcode s)).setA (s.mem.read (popAddr s))) = t := by
      rw [popByte_fetchInstr_of_settled hsettled]
      rfl
    rw [← hpopped]
    refine ⟨exec_pop, fun hready hholds => ?_⟩
    exact ticksTo_five hready hholds exec_pop
      (runningTick_executeStart_spDec rfl hready hholds (by simp [rom, executeWords_pop]))
      popDecremented_stepCtr (running_popDecremented hready.running)
      (runningTick_popDecremented_spToMar rfl hready (by simp [rom, executeWords_pop]))
      popAddressed_stepCtr (running_popAddressed hready.running) runningTick_popAddressed_pop (endInstr_stepCtr _)

end Sys2Proof.Machine
end

section
/-! PROOF. The decoder against the encoder, the opcode map and the lengths (R49 to R54). -/

namespace Sys2Proof

open Machine

/-- What decodes to `i` is the bytes of `i` and what follows them: the converse of `decode_encode_append`. -/
theorem eq_encode_append_of_decode {i : Instr} {bytes rest : List Byte} (h : decode bytes = .ok (i, rest)) :
    bytes = encode i ++ rest := by
  match bytes with
  | [] => cases h
  | opcode :: tail =>
    cases hform : opcodeForm opcode with
    | op j =>
      obtain ⟨rfl, rfl⟩ : j = i ∧ tail = rest := by simpa [decode, hform] using h
      obtain ⟨hopcode, hoperand⟩ := opcode_of_form_op hform
      simp [encode, ← hopcode, hoperand]
    | opAddr withOperand =>
      match tail with
      | [] => simp [decode, hform] at h
      | operand :: tail' =>
        obtain ⟨rfl, rfl⟩ : withOperand operand = i ∧ tail' = rest := by simpa [decode, hform] using h
        obtain ⟨hopcode, hoperand⟩ := opcode_of_form_opAddr hform operand
        simp [encode, ← hopcode, hoperand]
    | undefined => simp [decode, hform] at h

/-- Settles O1: each direction of the round trip is a case split on what the opcode byte selects. -/
theorem decodeInvertsEncode : Obligations.DecodeInvertsEncode := fun i _ rest =>
  ⟨eq_encode_append_of_decode, fun hbytes => hbytes ▸ decode_encode_append i rest⟩

/-- Settles O2: the decoder runs on each of the words. -/
theorem sampleWordsDecode : Obligations.SampleWordsDecode :=
  ⟨rfl, rfl, rfl, rfl, rfl, rfl, rfl, rfl, rfl⟩

/-! Undefined opcodes (R54, R62). -/

theorem validOpcode_eq_false_iff (opcode : Byte) : validOpcode opcode = false ↔ 0x13 ≤ opcode.toNat := by
  simp [validOpcode]
  omega

theorem decode_eq_undefined_iff (opcode : Byte) (rest : List Byte) :
    decode (opcode :: rest) = .error (.undefinedOpcode opcode) ↔ validOpcode opcode = false := by
  rw [← form_undefined_iff]
  cases hform : opcodeForm opcode with
  | op i => simp [decode, hform]
  | opAddr withOperand => cases rest <;> simp [decode, hform]
  | undefined => simp [decode, hform]

/-- An undefined opcode has no execute word at all (R65). -/
theorem executeWords_of_undefined {opcode : Byte} (h : validOpcode opcode = false) (flags : FlagWord) :
    executeWords opcode flags = [] := by
  rw [validOpcode_eq_false_iff] at h
  unfold executeWords
  split <;> try omega
  rfl

theorem rom_of_undefined {opcode : Byte} (h : validOpcode opcode = false) {step : Nat} (hstep : 2 ≤ step)
    (flags : FlagWord) : rom opcode step flags = 0 := by
  obtain ⟨k, rfl⟩ := Nat.exists_eq_add_of_le' hstep
  simp [rom, executeWords_of_undefined h]

/-! The length of an instruction (R53). -/

theorem opcodeLength?_opcode (i : Instr) : opcodeLength? i.opcode = some (encode i).length := by
  rcases opcodeForm_opcode i with ⟨hoperand, hform⟩ | ⟨operand, withOperand, hoperand, -, hform⟩
  all_goals simp [opcodeLength?, hform, encode, hoperand]

theorem opcodeLength?_eq_two {opcode : Byte} (h : opcodeLength? opcode = some 2) :
    ∃ withOperand, opcodeForm opcode = .opAddr withOperand := by
  unfold opcodeLength? at h
  split at h
  · simp at h
  · next withOperand hform => exact ⟨withOperand, hform⟩
  · simp at h

theorem opcodeLength?_eq_none_iff (opcode : Byte) : opcodeLength? opcode = none ↔ validOpcode opcode = false := by
  rw [← form_undefined_iff]
  cases hform : opcodeForm opcode <;> simp [opcodeLength?, hform]

/-- The opcodes of format OP_ADDR (R51). -/
theorem opcode_mem_of_operand {i : Instr} {operand : Byte} (h : i.operand? = some operand) :
    i.opcode ∈ ([0x02, 0x03, 0x04, 0x0A, 0x0B, 0x0C, 0x0F] : List Byte) := by
  cases i <;> simp [Instr.operand?] at h <;> simp [Instr.opcode]

/-- Settles O3: an undefined byte selects nothing, so it decodes to nothing and has no execute word. -/
theorem undefinedOpcodesAreRejected : Obligations.UndefinedOpcodesAreRejected := by
  refine ⟨fun opcode rest => ?rejected, ?count, fun opcode flags h => ?words, fun opcode operand rest h => ?operands⟩
  case rejected => rw [decode_eq_undefined_iff, validOpcode_eq_false_iff]
  case count => decide +kernel
  case words =>
    exact ⟨wordPcToMar_eq, wordFetchOpcode_eq,
      fun n hn => rom_of_undefined ((validOpcode_eq_false_iff opcode).mpr h) hn flags⟩
  case operands =>
    obtain ⟨withOperand, hform⟩ := opcodeLength?_eq_two h
    exact ⟨withOperand operand, by simp [decode, hform], (opcode_of_form_opAddr hform operand).2⟩

/-- Settles O4: the form that the opcode byte selects decides the length. -/
theorem opcodeAloneGivesLength : Obligations.OpcodeAloneGivesLength := by
  refine ⟨opcodeLength?_opcode, fun opcode => ⟨fun h => ?two, fun h => ?listed⟩, opcodeLength?_eq_none_iff⟩
  case two =>
    obtain ⟨withOperand, hform⟩ := opcodeLength?_eq_two h
    obtain ⟨hopcode, hoperand⟩ := opcode_of_form_opAddr hform 0x00
    rw [hopcode]
    exact opcode_mem_of_operand hoperand
  case listed => fin_cases h <;> rfl

end Sys2Proof
end

section
/-! PROOF. A step at an instruction boundary, and a run that has ended (R84, R130). -/

namespace Sys2Proof.Machine

variable {s t : State} {i : Instr} {rest : List Byte}

/-- The bytes at PC decode to `i` exactly when they begin with the bytes of `i`. -/
theorem holdsInstr_of_decode (h : decode (fetchBytes s) = .ok (i, rest)) : HoldsInstr i s :=
  ⟨rest, (eq_encode_append_of_decode h).symm⟩

/-- Settles O41: the bytes at PC are those of the instruction, and it runs. -/
theorem stepRunsTheDecodedInstruction : Obligations.StepRunsTheDecodedInstruction :=
  fun _ _ _ hrunning hstep hdecode => step_of_holdsInstr hrunning hstep (holdsInstr_of_decode hdecode)

theorem tick_of_fault {record : Fault} (h : s.fault = some record) : tick s = .fault record := by simp [tick, h]
theorem step_of_fault {record : Fault} (h : s.fault = some record) : step s = .fault record := by simp [step, h]
theorem tick_of_halted (hfault : s.fault = none) (h : s.halted = true) : tick s = .refused .halted := by
  simp [tick, hfault, h]
theorem step_of_halted (hfault : s.fault = none) (h : s.halted = true) : step s = .refused .halted := by
  simp [step, hfault, h]

/-- Settles O21: neither a tick nor a step asks for more than FAULT and HALTED. -/
theorem endedRunHasNoTick : Obligations.EndedRunHasNoTick :=
  ⟨fun _ _ h => ⟨tick_of_fault h, step_of_fault h⟩,
    fun _ hfault h => ⟨tick_of_halted hfault h, step_of_halted hfault h⟩⟩

/-- A step that answers a next state started in a run that had not ended. -/
theorem running_of_step (h : step s = .next t) : Running s := by
  cases hfault : s.fault with
  | some record => simp [step_of_fault hfault] at h
  | none =>
    refine ⟨hfault, ?_⟩
    cases hhalted : s.halted with
    | false => rfl
    | true => simp [step_of_halted hfault hhalted] at h

/-- At an instruction boundary the bytes at PC are those of an instruction, or the byte at PC is undefined: there are
two bytes to read, so no operand is missing. -/
theorem holdsInstr_or_undefined (s : State) : (∃ i, HoldsInstr i s) ∨ validOpcode (s.mem.read s.pc) = false := by
  cases hform : opcodeForm (s.mem.read s.pc) with
  | op i => exact .inl ⟨i, holdsInstr_of_decode (rest := [s.mem.read (s.pc + 1)]) (by simp [fetchBytes, decode, hform])⟩
  | opAddr withOperand =>
    exact .inl ⟨withOperand (s.mem.read (s.pc + 1)),
      holdsInstr_of_decode (rest := []) (by simp [fetchBytes, decode, hform])⟩
  | undefined => exact .inr ((form_undefined_iff _).mp hform)

theorem step_of_undefined (hrunning : Running s) (hstep : s.stepCtr = 0) (h : validOpcode (s.mem.read s.pc) = false) :
    step s = .next (undefinedOpcode s) := by
  have hdecode : decode (fetchBytes s) = .error (.undefinedOpcode (s.mem.read s.pc)) :=
    (decode_eq_undefined_iff _ [s.mem.read (s.pc + 1)]).mpr h
  simp [step, hrunning.noFault, hrunning.notHalted, hstep, hdecode]

end Sys2Proof.Machine
end

section
/-! PROOF. The control-word ROM: where each word stands, where the microcode ends, and what selects it (R60 to R67). -/

namespace Sys2Proof.Machine

/-! Where each execute word stands. -/

/-- The execute words of the ROM with their opcodes and steps (R66), those of both paths of a conditional jump
included. -/
def executePlaces : List (Byte × Nat × ControlWord) :=
  [(0x00, 2, wordNop), (0x01, 2, wordHalt),
    (0x02, 2, wordPcToMar), (0x02, 3, wordOperandToMar), (0x02, 4, wordMemToA),
    (0x03, 2, wordPcToMar), (0x03, 3, wordOperandToMar), (0x03, 4, wordMemToB),
    (0x04, 2, wordPcToMar), (0x04, 3, wordMemToPc),
    (0x05, 2, wordAluToA), (0x06, 2, wordAluToA), (0x07, 2, wordAluToA), (0x08, 2, wordAluToA), (0x09, 2, wordOut),
    (0x0A, 2, wordPcToMar), (0x0A, 3, wordMemToPc), (0x0A, 2, wordSkipOperand),
    (0x0B, 2, wordPcToMar), (0x0B, 3, wordMemToPc), (0x0B, 2, wordSkipOperand),
    (0x0C, 2, wordPcToMar), (0x0C, 3, wordMemToPc), (0x0C, 2, wordSkipOperand),
    (0x0D, 2, wordSpToMar), (0x0D, 3, wordPushA),
    (0x0E, 2, wordSpDec), (0x0E, 3, wordSpToMar), (0x0E, 4, wordMemToA),
    (0x0F, 2, wordSpToMar), (0x0F, 3, wordPushPc), (0x0F, 4, wordPcToMar), (0x0F, 5, wordMemToPc),
    (0x10, 2, wordSpDec), (0x10, 3, wordSpToMar), (0x10, 4, wordReturn),
    (0x11, 2, wordAToB), (0x12, 2, wordBToA)]

/-- Every execute word of an opcode stands at its place in the list, whatever the flags. -/
theorem mem_executePlaces {opcode : Byte} {flags : FlagWord} {k : Nat} {word : ControlWord}
    (h : (executeWords opcode flags)[k]? = some word) : (opcode, k + 2, word) ∈ executePlaces := by
  have hopcode (v : Nat) (hv : opcode.toNat = v) : opcode = BitVec.ofNat 8 v := by simp [← hv]
  unfold executeWords conditionalJumpWords jumpWords at h
  split at h
  all_goals try split at h
  -- no opcode has more than four execute words
  all_goals rcases k with _ | _ | _ | _ | k <;> simp at h
  all_goals
    subst h
    rw [hopcode _ (by assumption)]
    decide

/-- The words that no opcode chooses: the all-zero word and the two words of the fetch (R64, R65). -/
def commonWords : List ControlWord := [0, wordPcToMar, wordFetchOpcode]

/-- Where a test that passes none of the common words can pass a word of the ROM: at a place of the list. -/
theorem place_of_rom_test {opcode : Byte} {step : Nat} {flags : FlagWord} (test : ControlWord → Bool)
    (place : Byte → Nat → Prop) (hcommon : (commonWords.all fun word => !test word) = true)
    (hplaces : ∀ entry ∈ executePlaces, test entry.2.2 = true → place entry.1 entry.2.1)
    (h : test (rom opcode step flags) = true) : place opcode step := by
  obtain ⟨hzero, haddress, hfetch⟩ :
      test 0 = false ∧ test wordPcToMar = false ∧ test wordFetchOpcode = false := by
    simpa [commonWords] using hcommon
  match step with
  | 0 => exact absurd h (by simp [rom, haddress])
  | 1 => exact absurd h (by simp [rom, hfetch])
  | k + 2 =>
    rw [rom, List.getD_eq_getElem?_getD] at h
    cases hword : (executeWords opcode flags)[k]? with
    | none => exact absurd h (by rw [hword, Option.getD_none, hzero]; decide)
    | some word => exact hplaces _ (mem_executePlaces hword) (by simpa [hword] using h)

section Places

variable {opcode : Byte} {step : Nat} {flags : FlagWord}

/-! The places of the signals that change the machine for good (R79, R80, R101), of the stores, and of the returns. -/

theorem place_of_memWe (h : asserts (rom opcode step flags) .memWe = true) :
    step = 3 ∧ (opcode = 0x0D ∨ opcode = 0x0F) :=
  place_of_rom_test (asserts · .memWe) (fun opcode step => step = 3 ∧ (opcode = 0x0D ∨ opcode = 0x0F)) (by decide)
    (by decide) h

theorem place_of_spMove
    (h : (asserts (rom opcode step flags) .spInc || asserts (rom opcode step flags) .spDec) = true) :
    2 ≤ step ∧ opcode ∈ ([0x0D, 0x0E, 0x0F, 0x10] : List Byte) :=
  place_of_rom_test (fun word => asserts word .spInc || asserts word .spDec)
    (fun opcode step => 2 ≤ step ∧ opcode ∈ ([0x0D, 0x0E, 0x0F, 0x10] : List Byte)) (by decide) (by decide) h

theorem place_of_out (h : asserts (rom opcode step flags) .out = true) : step = 2 ∧ opcode = 0x09 :=
  place_of_rom_test (asserts · .out) (fun opcode step => step = 2 ∧ opcode = 0x09) (by decide) (by decide) h

theorem place_of_hlt (h : asserts (rom opcode step flags) .hlt = true) : step = 2 ∧ opcode = 0x01 :=
  place_of_rom_test (asserts · .hlt) (fun opcode step => step = 2 ∧ opcode = 0x01) (by decide) (by decide) h

theorem place_of_aluOut (h : asserts (rom opcode step flags) .aluOut = true) :
    step = 2 ∧ (aluOpOf opcode).isSome = true :=
  place_of_rom_test (asserts · .aluOut) (fun opcode step => step = 2 ∧ (aluOpOf opcode).isSome = true) (by decide)
    (by decide) h

theorem place_of_return (h : (asserts (rom opcode step flags) .pcIn && asserts (rom opcode step flags) .pcInc) = true) :
    opcode = 0x10 ∧ step = 4 :=
  place_of_rom_test (fun word => asserts word .pcIn && asserts word .pcInc)
    (fun opcode step => opcode = 0x10 ∧ step = 4) (by decide) (by decide) h

/-- Only fetch step 1 loads IR (R21, R64). -/
theorem step_of_irIn (h : asserts (rom opcode step flags) .irIn = true) : step = 1 := by
  match step with
  | 0 => exact absurd h (by simp only [rom]; decide)
  | 1 => rfl
  | k + 2 =>
    rw [rom, List.getD_eq_getElem?_getD] at h
    cases hword : (executeWords opcode flags)[k]? with
    | none => exact absurd h (by simp only [hword]; decide)
    | some word =>
      have hexecute : ∀ entry ∈ executePlaces, asserts entry.2.2 .irIn = false := by decide
      rw [hword, Option.getD_some, hexecute _ (mem_executePlaces hword)] at h
      cases h

end Places

/-! The bus rules (R67). -/

/-- What R67 asks of each single word, whatever its place: (a), (g), (h), (i). -/
def KeepsBusRules (word : ControlWord) : Prop :=
  (assertedDrivers word).length ≤ 1 ∧ (assertedReceivers word ≠ [] → (assertedDrivers word).length = 1) ∧
    (assertedReceivers word).length ≤ 1 ∧ ¬(asserts word .spInc = true ∧ asserts word .spDec = true) ∧
    ¬(asserts word .memWe = true ∧ asserts word .memOut = true) ∧
    (asserts word .memWe = true → asserts word .mbrIn = true)

theorem rom_keepsBusRules (opcode : Byte) (step : Nat) (flags : FlagWord) : KeepsBusRules (rom opcode step flags) := by
  have hword := rom_mem opcode step flags
  generalize rom opcode step flags = word at hword ⊢
  unfold KeepsBusRules
  -- one closed case for each word that the ROM can hold
  fin_cases hword <;> decide

theorem rom_at_most_one_driver (opcode : Byte) (step : Nat) (flags : FlagWord) :
    (assertedDrivers (rom opcode step flags)).length ≤ 1 :=
  (rom_keepsBusRules opcode step flags).1

/-- Settles O6: every word keeps the rules about one word, and the one word with PC_IN and PC_INC has one place. -/
theorem romWordsKeepTheBusRules : Obligations.RomWordsKeepTheBusRules := by
  intro opcode n flags
  obtain ⟨hdrivers, hdriver, hreceivers, hsp, haccess, hstore⟩ := rom_keepsBusRules opcode n flags
  exact ⟨hdrivers, hdriver, hreceivers, hsp, haccess, hstore,
    fun hboth => place_of_return (by simpa [Bool.and_eq_true] using hboth)⟩

/-! Where the microcode ends (R67). -/

/-- The last word resets STEP, and no word before it does. -/
def endsWithReset : List ControlWord → Bool
  | [] => false
  | [word] => asserts word .stepRst
  | word :: rest => !asserts word .stepRst && endsWithReset rest

theorem stepRst_getD_iff {words : List ControlWord} (h : endsWithReset words = true) :
    ∀ k, asserts (words.getD k 0) .stepRst = true ↔ k + 1 = words.length := by
  induction words using endsWithReset.induct with
  | case1 => cases h
  | case2 word =>
    intro k
    cases k with
    | zero => simpa [endsWithReset] using h
    | succ k => simp [asserts]
  | case3 word rest hrest ih =>
    rw [endsWithReset, Bool.and_eq_true, Bool.not_eq_true'] at h
    · obtain ⟨hword, hends⟩ := h
      intro k
      cases k with
      | zero => simpa [hword] using hrest
      | succ k => simpa using ih hends k
    · exact hrest

/-- A defined opcode is the opcode of an instruction. -/
theorem exists_instr_of_validOpcode {opcode : Byte} (h : validOpcode opcode = true) :
    ∃ i : Instr, opcode = i.opcode := by
  cases hform : opcodeForm opcode with
  | op i => exact ⟨i, (opcode_of_form_op hform).1⟩
  | opAddr withOperand => exact ⟨withOperand 0x00, (opcode_of_form_opAddr hform 0x00).1⟩
  | undefined => simp [(form_undefined_iff opcode).mp hform] at h

/-- Both paths of a conditional jump end with a reset of STEP (R66). -/
theorem conditionalJumpWords_endsWithReset (tested : Bool) : endsWithReset (conditionalJumpWords tested) = true := by
  cases tested <;> decide

theorem executeWords_endsWithReset (i : Instr) (flags : FlagWord) :
    endsWithReset (executeWords i.opcode flags) = true := by
  cases i
  case jz => exact conditionalJumpWords_endsWithReset (flagZ flags)
  case jn => exact conditionalJumpWords_endsWithReset (flagN flags)
  case jc => exact conditionalJumpWords_endsWithReset (flagC flags)
  all_goals rfl

/-- The final used step of a defined opcode, and only it among the execute steps, resets STEP (R67 (b)). -/
theorem stepRst_rom_iff (i : Instr) (flags : FlagWord) {step : Nat} (hstep : 2 ≤ step) :
    asserts (rom i.opcode step flags) .stepRst = true ↔ step = lastStep i.opcode flags := by
  obtain ⟨k, rfl⟩ := Nat.exists_eq_add_of_le' hstep
  rw [rom, stepRst_getD_iff (executeWords_endsWithReset i flags), lastStep]
  omega

theorem rom_of_lastStep_lt {opcode : Byte} {flags : FlagWord} {step : Nat} (h : lastStep opcode flags < step)
    (hstep : 2 ≤ step) : rom opcode step flags = 0 := by
  obtain ⟨k, rfl⟩ := Nat.exists_eq_add_of_le' hstep
  rw [lastStep] at h
  exact List.getD_eq_default _ _ (by omega)

/-- The final used step comes right before the tick count of R141. -/
theorem tickCount_eq (i : Instr) (flags : FlagWord) : tickCount i flags = lastStep i.opcode flags + 1 := by
  have hconditional (tested : Bool) : (if tested then 4 else 3) = 1 + (conditionalJumpWords tested).length + 1 := by
    cases tested <;> rfl
  cases i
  case jz => exact hconditional (flagZ flags)
  case jn => exact hconditional (flagN flags)
  case jc => exact hconditional (flagC flags)
  all_goals rfl

theorem tickCount_bounds (i : Instr) (flags : FlagWord) : 3 ≤ tickCount i flags ∧ tickCount i flags ≤ 6 := by
  cases i <;> simp only [tickCount] <;> try split
  all_goals decide

/-- Settles O7: the execute words end with the one that resets STEP, and the tick counts are between 3 and 6. -/
theorem definedMicrocodeEnds : Obligations.DefinedMicrocodeEnds := by
  intro i flags
  obtain ⟨hfrom, hto⟩ := tickCount_bounds i flags
  rw [tickCount_eq] at hfrom hto
  exact ⟨lastStep i.opcode flags, tickCount_eq i flags, by omega, by omega, wordPcToMar_eq, wordFetchOpcode_eq,
    fun n hn => stepRst_rom_iff i flags hn, fun n hn => rom_of_lastStep_lt hn (by omega)⟩

/-! What selects the words (R67). -/

/-- The execute words depend on the flags through the one flag a conditional jump tests. -/
theorem executeWords_congr {opcode : Byte} {flags flags' : FlagWord} (hz : opcode = 0x0A → flagZ flags = flagZ flags')
    (hn : opcode = 0x0B → flagN flags = flagN flags') (hc : opcode = 0x0C → flagC flags = flagC flags') :
    executeWords opcode flags = executeWords opcode flags' := by
  cases hvalid : validOpcode opcode with
  | false => rw [executeWords_of_undefined hvalid, executeWords_of_undefined hvalid]
  | true =>
    obtain ⟨i, rfl⟩ := exists_instr_of_validOpcode hvalid
    cases i
    case jz => exact congrArg conditionalJumpWords (hz rfl)
    case jn => exact congrArg conditionalJumpWords (hn rfl)
    case jc => exact congrArg conditionalJumpWords (hc rfl)
    all_goals rfl

/-- Settles O8: the fetch words are fixed, and only the three conditional jumps have execute words that flags choose. -/
theorem onlyTestedFlagSelectsWords : Obligations.OnlyTestedFlagSelectsWords := by
  intro opcode n flags flags' hz hn hc
  match n with
  | 0 => rfl
  | 1 => rfl
  | k + 2 => rw [rom, rom, executeWords_congr hz hn hc]

/-! The ROM as an addressed table (R61). -/

/-- The step field is wide enough for every step. -/
theorem nSteps_le_two_pow_stepFieldWidth (cfg : Config) : cfg.nSteps ≤ 2 ^ stepFieldWidth cfg := by
  unfold stepFieldWidth
  cases hfind : (List.range (cfg.nSteps + 1)).find? fun w => decide (cfg.nSteps ≤ 2 ^ w) with
  | none => exact Nat.lt_two_pow_self.le
  | some w => simpa using List.find?_some hfind

/-- The opcode and the fields below it part again. -/
theorem romAddr_eq (cfg : Config) (opcode : Byte) (step : Nat) (flags : FlagWord) :
    romAddr cfg opcode step flags = 32 * (2 ^ stepFieldWidth cfg * opcode.toNat + step) + flags.toNat := by
  rw [romAddr, Nat.pow_add]
  ring

/-- Settles O9: the three fields of the address are read back, because the step field holds every step. -/
theorem romTableHoldsEveryKey : Obligations.RomTableHoldsEveryKey := by
  intro cfg opcode n flags hn
  have hstep : n < 2 ^ stepFieldWidth cfg := hn.trans_le (nSteps_le_two_pow_stepFieldWidth cfg)
  have hflags : flags.toNat < 32 := flags.isLt
  have hkey : romAddr cfg opcode n flags / 32 = 2 ^ stepFieldWidth cfg * opcode.toNat + n := by
    rw [romAddr_eq]; omega
  have hstepField : romAddr cfg opcode n flags / 32 % 2 ^ stepFieldWidth cfg = n := by
    rw [hkey, Nat.mul_add_mod, Nat.mod_eq_of_lt hstep]
  have hopcodeField : romAddr cfg opcode n flags / 2 ^ (stepFieldWidth cfg + 5) = opcode.toNat := by
    rw [Nat.add_comm, Nat.pow_add, ← Nat.div_div_eq_div_mul, hkey, Nat.mul_add_div (Nat.two_pow_pos _),
      Nat.div_eq_of_lt hstep, Nat.add_zero]
  have hflagsField : BitVec.ofNat 5 (romAddr cfg opcode n flags) = flags := by
    apply BitVec.eq_of_toNat_eq
    rw [romAddr_eq, BitVec.toNat_ofNat]
    omega
  constructor
  · rw [romTable, hstepField, if_pos hn, hopcodeField, hflagsField, BitVec.ofNat_toNat, BitVec.setWidth_eq]
  · rw [Nat.add_assoc, Nat.pow_add, ← Nat.div_lt_iff_lt_mul (Nat.two_pow_pos _), hopcodeField]
    exact opcode.isLt

end Sys2Proof.Machine
end

section
/-! PROOF. The source line of an instruction (R55): its words, the number that its operand is written as, and the bytes
that it places. -/

namespace Sys2Proof.Machine

/-! The words of a line. -/

/-- A character that neither parts two words nor begins a comment. -/
def isWordChar (c : Char) : Bool := c != ';' && c != ' ' && c != '\t'

theorem tokensFrom_append {token : Token} (h : token.all isWordChar = true) (word : Token) (rest : List Char) :
    tokensFrom word (token ++ rest) = tokensFrom (token.reverse ++ word) rest := by
  induction token generalizing word with
  | nil => rfl
  | cons c token ih =>
    simp only [List.all_cons, isWordChar, Bool.and_eq_true, bne_iff_ne] at h
    obtain ⟨⟨⟨hcomment, hspace⟩, htab⟩, htoken⟩ := h
    rw [List.cons_append, tokensFrom, if_neg hcomment, if_neg (not_or.mpr ⟨hspace, htab⟩), ih htoken]
    simp

theorem tokensFrom_one {token : Token} (h : token.all isWordChar = true) (hne : token ≠ []) :
    tokensFrom [] token = [token] := by
  have hread := tokensFrom_append h [] []
  simp only [List.append_nil, tokensFrom, List.reverse_eq_nil_iff, if_neg hne, List.reverse_reverse] at hread
  exact hread

theorem tokensFrom_two {first second : Token} (hfirst : first.all isWordChar = true)
    (hsecond : second.all isWordChar = true) (hne : first ≠ []) (hne' : second ≠ []) :
    tokensFrom [] (first ++ ' ' :: second) = [first, second] := by
  rw [tokensFrom_append hfirst, List.append_nil, tokensFrom, if_neg (by decide), if_pos (by decide), if_neg (by simpa),
    tokensFrom_one hsecond hne', List.reverse_reverse]

/-! The operand as a number. -/

/-- Each digit is a character of a word, and reads back as its value. -/
theorem hexDigit_spec :
    ∀ value < 16, isWordChar (hexDigit value) = true ∧ digitValue? 16 (hexDigit value) = some value := by
  decide

theorem numeral?_hexByte (value : Byte) : numeral? (hexByte value) = some value.toNat := by
  have hhigh := (hexDigit_spec (value.toNat / 16) (by have := value.isLt; omega)).2
  have hlow := (hexDigit_spec (value.toNat % 16) (by omega)).2
  simp only [hexByte, numeral?, digitsValue?, hhigh, hlow, Option.some.injEq]
  omega

theorem number?_hexByte (value : Byte) : number? (hexByte value) = some value := by
  have hle : value.toNat ≤ 255 := Nat.le_of_lt_succ value.isLt
  simp [number?, numeral?_hexByte, hle]

theorem hexByte_wordChars (value : Byte) : (hexByte value).all isWordChar = true := by
  have hhigh := (hexDigit_spec (value.toNat / 16) (by have := value.isLt; omega)).1
  have hlow := (hexDigit_spec (value.toNat % 16) (by omega)).1
  simp only [hexByte, List.all_cons, hhigh, hlow]
  decide

theorem asmOperand?_hexByte (value : Byte) : asmOperand? (hexByte value) = some (.number value) := by
  have hdigit : digitValue? 10 '0' = some 0 := by decide
  change asmOperand?.plain (hexByte value) = _
  rw [hexByte, asmOperand?.plain, hdigit, ← hexByte, number?_hexByte, Option.map_some]

/-- A `#` before a number means nothing (R55). -/
theorem asmOperand?_hash_hexByte (value : Byte) : asmOperand? ('#' :: hexByte value) = some (.number value) :=
  asmOperand?_hexByte value

/-! The mnemonic. -/

theorem mnemonic_wordChars (i : Instr) : (mnemonic i).all isWordChar = true := by cases i <;> rfl
theorem mnemonic_ne_nil (i : Instr) : mnemonic i ≠ [] := by cases i <;> simp [mnemonic]
theorem mnemonic_no_label (i : Instr) : (mnemonic i).getLast? ≠ some ':' := by cases i <;> simp [mnemonic]
theorem mnemonic_no_directive (i : Instr) :
    mnemonic i ≠ ['.', 'b', 'y', 't', 'e'] ∧ mnemonic i ≠ ['.', 'o', 'r', 'g'] := by cases i <;> simp [mnemonic]

/-- Each mnemonic stands in the table of its format with its opcode (R51). -/
theorem lookup_mnemonic_op {i : Instr} (h : i.operand? = none) : opMnemonics.lookup (mnemonic i) = some i.opcode := by
  cases i <;> simp [Instr.operand?] at h <;> rfl

theorem lookup_mnemonic_opAddr {i : Instr} {operand : Byte} (h : i.operand? = some operand) :
    opAddrMnemonics.lookup (mnemonic i) = some i.opcode := by
  cases i <;> simp [Instr.operand?] at h <;> rfl

/-! The line, and the bytes it places. -/

theorem asmLine?_op {i : Instr} (h : i.operand? = none) : asmLine? (mnemonic i) = some [.op i.opcode] := by
  rw [asmLine?, tokensFrom_one (mnemonic_wordChars i) (mnemonic_ne_nil i)]
  simp [mnemonic_no_label, asmBody?, lookup_mnemonic_op h]

/-- A line of format OP_ADDR with its operand word: whichever way the word writes the number. -/
theorem asmLine?_opAddr {i : Instr} {operand : Byte} {word : Token} (h : i.operand? = some operand)
    (hchars : word.all isWordChar = true) (hne : word ≠ []) (hword : asmOperand? word = some (.number operand)) :
    asmLine? (mnemonic i ++ ' ' :: word) = some [.opAddr i.opcode (.number operand)] := by
  obtain ⟨hbyte, horg⟩ := mnemonic_no_directive i
  rw [asmLine?, tokensFrom_two (mnemonic_wordChars i) hchars (mnemonic_ne_nil i) hne]
  simp [mnemonic_no_label, asmBody?, hbyte, horg, lookup_mnemonic_opAddr h, hword]

theorem assemble?_op {line : List Char} {opcode : Byte} (h : asmLine? line = some [.op opcode]) :
    assemble? [line] = some (imageMemory [opcode]) := by
  simp [assemble?, asmLines?, h, placeItems?, AsmItem.bytes?, imageMemory]

theorem assemble?_opAddr {line : List Char} {opcode operand : Byte}
    (h : asmLine? line = some [.opAddr opcode (.number operand)]) :
    assemble? [line] = some (imageMemory [opcode, operand]) := by
  simp [assemble?, asmLines?, h, placeItems?, AsmItem.bytes?, AsmOperand.value?, imageMemory]

/-- Settles O5: the line is the mnemonic and, in format OP_ADDR, one more word that reads as the operand. -/
theorem sourceAssemblesToItsBytes : Obligations.SourceAssemblesToItsBytes := by
  refine ⟨fun i => ?plain, fun i operand hoperand => ?hash⟩
  case plain =>
    cases hoperand : i.operand? with
    | none => simpa [sourceLine, hoperand, encode] using assemble?_op (asmLine?_op hoperand)
    | some operand =>
      have hline := asmLine?_opAddr hoperand (hexByte_wordChars operand) (List.cons_ne_nil _ _)
        (asmOperand?_hexByte operand)
      simpa [sourceLine, hoperand, encode] using assemble?_opAddr hline
  case hash =>
    have hchars : ('#' :: hexByte operand).all isWordChar = true := by
      rw [List.all_cons, hexByte_wordChars]
      decide
    have hline := asmLine?_opAddr hoperand hchars (List.cons_ne_nil _ _) (asmOperand?_hash_hexByte operand)
    simpa [hoperand, encode] using assemble?_opAddr hline

end Sys2Proof.Machine
end

section
/-! PROOF. The ALU function as numbers and flags (R94 to R99). -/

namespace Sys2Proof.Machine

/-- The negative flag is the top bit, so it says that the result is 128 or more (R97). -/
theorem negativeFlag_iff (r : Byte) : negativeFlag r = true ↔ 128 ≤ r.toNat := by
  have hmsb : negativeFlag r = r.msb := rfl
  rw [hmsb, BitVec.msb_eq_decide]
  simp

/-- Counting the 1 bits along the list of positions is counting them in the set of positions. -/
theorem onesCount_eq_card (r : Byte) :
    onesCount r = (Finset.univ.filter fun k : Fin 8 => r.getLsbD k = true).card := by
  rw [Finset.card_filter, Fin.sum_univ_eight]
  simp only [onesCount, List.range_succ, List.range_zero, List.nil_append, List.cons_append, List.countP_cons,
    List.countP_nil]
  simp only [Fin.isValue, Fin.coe_ofNat_eq_mod]
  ring

/-- Settles O10: the sums and differences are those of 8-bit words, and each flag is its bit of the packed word. -/
theorem aluFlagsDescribeTheResult : Obligations.AluFlagsDescribeTheResult := by
  refine ⟨fun a b => ⟨?add, ?sub, ?xor, ?and, ?carry, ?borrow, ?xorCarry, ?andCarry⟩,
    fun op a b => ⟨?zero, ?negative, ?parity, flagReserved_aluFlagWord op a b⟩⟩
  case add => exact BitVec.toNat_add a b
  case sub => simp only [aluResult, BitVec.toNat_sub]; omega
  case xor => simp [aluResult]
  case and => simp [aluResult]
  case carry => simp
  case borrow => simp
  case xorCarry => simp
  case andCarry => simp
  case zero => simp [← BitVec.toNat_inj]
  case negative => rw [flagN_aluFlagWord, negativeFlag_iff]
  case parity => rw [flagP_aluFlagWord, parityFlag_iff, onesCount_eq_card, Nat.even_iff]

end Sys2Proof.Machine
end

section
/-! PROOF. What one tick leaves in every register, under any word and under the ROM (R70 to R82). -/

namespace Sys2Proof.Machine

/-! The fields after the phases that follow bus-out, but for those of `eachTickAccessesMemoryOnce` and of PC, SP and
FAULT. -/

section AfterBusOut

variable (word : ControlWord) (bus : Byte) (s : State)

theorem afterBusOut_cfg : (afterBusOut word bus s).cfg = s.cfg := by simp [afterBusOut]
theorem afterBusOut_a : (afterBusOut word bus s).a = if asserts word .aIn then bus else s.a := by simp [afterBusOut]
theorem afterBusOut_b : (afterBusOut word bus s).b = if asserts word .bIn then bus else s.b := by simp [afterBusOut]
theorem afterBusOut_mar : (afterBusOut word bus s).mar = if asserts word .marIn then bus else s.mar := by
  simp [afterBusOut]
theorem afterBusOut_ir : (afterBusOut word bus s).ir = if asserts word .irIn then bus else s.ir := by
  simp [afterBusOut]
theorem afterBusOut_stepCtr : (afterBusOut word bus s).stepCtr = nextStep word s.cfg s.stepCtr := by
  simp [afterBusOut]
theorem afterBusOut_halted : (afterBusOut word bus s).halted = (asserts word .hlt || s.halted) := by
  simp [afterBusOut]
theorem afterBusOut_output : (afterBusOut word bus s).output =
    if asserts word .out then s.output ++ [if asserts word .aIn then bus else s.a] else s.output := by
  simp [afterBusOut]

end AfterBusOut

/-- The driver that a word asserts alone puts the bus value of the case on the bus (R73, R74). -/
theorem tickWord_of_driver {word : ControlWord} {s : State} {bus : Byte}
    (h : (assertedDrivers word = [] ∧ bus = 0x00) ∨ (assertedDrivers word = [.pcOut] ∧ bus = s.pc) ∨
      (assertedDrivers word = [.memOut] ∧ bus = s.mbr) ∨ (assertedDrivers word = [.aOut] ∧ bus = s.a) ∨
      (assertedDrivers word = [.bOut] ∧ bus = s.b) ∨ (assertedDrivers word = [.aluOut] ∧ bus = s.alu) ∨
      (assertedDrivers word = [.spOut] ∧ bus = stackAddr s.cfg s.sp)) :
    tickWord word s = afterBusOut word bus s := by
  rcases h with ⟨h, rfl⟩ | ⟨h, rfl⟩ | ⟨h, rfl⟩ | ⟨h, rfl⟩ | ⟨h, rfl⟩ | ⟨h, rfl⟩ | ⟨h, rfl⟩
  · exact tickWord_undriven s h
  all_goals rw [tickWord_driven s h, driveValue]

/-- Settles O11: the bus value of the one driver goes through the phases after bus-out, field by field. -/
theorem tickTransfersThroughTheBus : Obligations.TickTransfersThroughTheBus := by
  intro word s bus hdriver
  rw [tickWord_of_driver hdriver]
  refine ⟨afterBusOut_a .., afterBusOut_b .., afterBusOut_ir .., afterBusOut_mar .., ?mbr, ?pc, afterBusOut_sp ..,
    afterBusOut_stepCtr .., ?output, ?halted, afterBusOut_fault .., afterBusOut_cfg ..⟩
  case mbr => rw [afterBusOut_mbr, afterBusOut_mar, busIn_mbr, busIn_mar]
  case pc =>
    rw [afterBusOut_pc]
    split <;> simp
  case output =>
    rw [afterBusOut_output, afterBusOut_a]
    split <;> simp
  case halted => rw [afterBusOut_halted, Bool.or_comm]

/-! The latch and the two flag registers (R82, R100, R101). -/

section AluPhase

variable {s : State} {op : AluOp}

theorem aluPhase_of_everyAluCycle (hop : aluOpOf s.ir = some op) (hmode : s.cfg.flagsMode = .everyAluCycle) :
    aluPhase s = (s.setAlu (aluResult op s.a s.b)).setFlags (aluFlagWord op s.a s.b) := by simp [aluPhase, hop, hmode]

theorem aluPhase_of_atWriteback (hop : aluOpOf s.ir = some op) (hmode : s.cfg.flagsMode = .atWriteback) :
    aluPhase s = (s.setAlu (aluResult op s.a s.b)).setAluFlags (aluFlagWord op s.a s.b) := by
  simp [aluPhase, hop, hmode]

/-- Where ALU_FLAGS does not exist, the ALU phase does not write it (R27). -/
theorem aluPhase_aluFlags_of_everyAluCycle (hmode : s.cfg.flagsMode = .everyAluCycle) :
    (aluPhase s).aluFlags = s.aluFlags := by
  rcases aluPhase_cases s with h | ⟨op, -, ⟨-, h⟩ | ⟨hmode', -⟩⟩
  · rw [h]
  · rw [h]; rfl
  · rw [hmode] at hmode'; cases hmode'

end AluPhase

/-- A tick ends with the ALU phase, on a state that holds the latch and ALU_FLAGS of before and the FLAGS of bus-in. -/
theorem exists_beforeAluPhase {word : ControlWord} (hdrivers : (assertedDrivers word).length ≤ 1) (s : State) :
    ∃ u, tickWord word s = aluPhase u ∧ u.cfg = s.cfg ∧ u.alu = s.alu ∧ u.aluFlags = s.aluFlags ∧
      u.flags = if asserts word .aluOut ∧ s.cfg.flagsMode = .atWriteback then s.aluFlags else s.flags :=
  ⟨_, tickWord_of_le hdrivers, rfl, rfl, rfl, rfl⟩

/-- Settles O15: the last phase of a tick is the ALU phase, in each mode on the opcode that is then in IR. -/
theorem aluPhaseEndsEveryTick : Obligations.AluPhaseEndsEveryTick := by
  intro word s hdrivers
  obtain ⟨u, htick, hcfg, halu, haluFlags, hflags⟩ := exists_beforeAluPhase hdrivers s
  rw [htick, aluPhase_ir, aluPhase_a, aluPhase_b, ← halu, ← haluFlags]
  have hmodes : s.cfg.flagsMode = u.cfg.flagsMode := by rw [hcfg]
  cases hop : aluOpOf u.ir with
  | none =>
    rw [aluPhase_of_none hop]
    cases hmode : s.cfg.flagsMode <;> simp [hflags, haluFlags, hmode]
  | some op =>
    cases hmode : s.cfg.flagsMode with
    | everyAluCycle => simp [aluPhase_of_everyAluCycle hop (hmodes ▸ hmode)]
    | atWriteback => simp [aluPhase_of_atWriteback hop (hmodes ▸ hmode), hflags, haluFlags, hmode]

/-! What a tick of the ROM can do (R70, R116, R118). -/

/-- The transfers of a tick under the word that the ROM holds for its key. -/
def romTransfers (s : State) : State :=
  afterBusOut (rom s.ir s.stepCtr s.flags) (busValue (assertedDrivers (rom s.ir s.stepCtr s.flags)) s) s

/-- All a tick of a running machine can do: record an undefined opcode, or follow the ROM, whose words have at most one
driver. -/
theorem runningTick_fault_or_rom (s : State) :
    (s.cfg.undefinedMode = .fault ∧ 2 ≤ s.stepCtr ∧ validOpcode s.ir = false ∧
        runningTick s = s.setFault (some (.invalidOpcode s.ir s.pc))) ∨
      (¬(s.cfg.undefinedMode = .fault ∧ 2 ≤ s.stepCtr ∧ validOpcode s.ir = false) ∧
        runningTick s = romTransfers s) := by
  rcases runningTick_cases s with ⟨hcheck, htick⟩ | ⟨hcheck, htick⟩
  · simp only [invalidOpcodeCheck, Bool.and_eq_true, decide_eq_true_eq, Bool.not_eq_true'] at hcheck
    obtain ⟨⟨hmode, hstep⟩, hopcode⟩ := hcheck
    exact .inl ⟨hmode, hstep, hopcode, htick⟩
  · refine .inr ⟨?_, htick.trans (tickWord_of_le (rom_at_most_one_driver ..))⟩
    rintro ⟨hmode, hstep, hopcode⟩
    simp [invalidOpcodeCheck, hmode, hstep, hopcode] at hcheck

section RomTransfers

variable (s : State)

theorem romTransfers_cfg : (romTransfers s).cfg = s.cfg := afterBusOut_cfg ..
theorem romTransfers_fault : (romTransfers s).fault = s.fault := afterBusOut_fault ..
theorem romTransfers_settled : AluSettled (romTransfers s) := aluPhase_aluPhase _

variable {s}

theorem romTransfers_ir_of_ne (h : s.stepCtr ≠ 1) : (romTransfers s).ir = s.ir := by
  rw [romTransfers, afterBusOut_ir, if_neg fun hload => h (step_of_irIn hload)]

theorem romTransfers_mem_of_not_store (h : ¬(s.stepCtr = 3 ∧ (s.ir = 0x0D ∨ s.ir = 0x0F))) :
    (romTransfers s).mem = s.mem := by
  rw [romTransfers, afterBusOut_mem, if_neg fun hwrite => h (place_of_memWe hwrite)]

theorem romTransfers_sp_of_not_mem (h : s.ir ∉ ([0x0D, 0x0E, 0x0F, 0x10] : List Byte)) :
    (romTransfers s).sp = s.sp := by
  have hmove : (asserts (rom s.ir s.stepCtr s.flags) .spInc || asserts (rom s.ir s.stepCtr s.flags) .spDec) = false :=
    Bool.eq_false_iff.mpr fun hmove => h (place_of_spMove hmove).2
  rw [Bool.or_eq_false_iff] at hmove
  simp [romTransfers, afterBusOut_sp, nextSp, hmove]

/-- FLAGS is written by the ALU phase, or by ALU_OUT while an ALU opcode is in IR. -/
theorem romTransfers_flags_of_idle (h : aluOpOf (romTransfers s).ir = none) : (romTransfers s).flags = s.flags := by
  obtain ⟨u, htick, -, -, -, hflags⟩ :=
    exists_beforeAluPhase (rom_at_most_one_driver s.ir s.stepCtr s.flags) s
  rw [tickWord_of_le (rom_at_most_one_driver ..)] at htick
  change romTransfers s = aluPhase u at htick
  have hidle : aluOpOf u.ir = none := by rwa [htick, aluPhase_ir] at h
  rw [htick, aluPhase_of_none hidle, hflags, if_neg]
  rintro ⟨haluOut, -⟩
  obtain ⟨hstep, hop⟩ := place_of_aluOut haluOut
  rw [romTransfers_ir_of_ne (by omega)] at h
  simp [h] at hop

theorem romTransfers_output : (romTransfers s).output =
    s.output ++ if s.stepCtr = 2 ∧ s.ir = 0x09 then [s.a] else [] := by
  rw [romTransfers, afterBusOut_output]
  by_cases hplace : s.stepCtr = 2 ∧ s.ir = 0x09
  · obtain ⟨hstep, hir⟩ := hplace
    have hword : rom s.ir s.stepCtr s.flags = wordOut := by rw [hstep, hir]; rfl
    rw [hword, if_pos (by decide), if_neg (by decide), if_pos ⟨hstep, hir⟩]
  · rw [if_neg fun hout => hplace (place_of_out hout), if_neg hplace, List.append_nil]

theorem romTransfers_halted_of_not_hlt (h : ¬(s.stepCtr = 2 ∧ s.ir = 0x01)) :
    (romTransfers s).halted = s.halted := by
  rw [romTransfers, afterBusOut_halted, Bool.eq_false_iff.mpr fun hhlt => h (place_of_hlt hhlt), Bool.false_or]

end RomTransfers

/-- Settles O16: a tick that records a fault changes FAULT alone; any other tick changes a register only at the places
where the ROM asserts what writes it. -/
theorem eachRegisterHasItsWriters : Obligations.EachRegisterHasItsWriters := by
  intro s t h
  obtain ⟨-, rfl⟩ := tick_next h
  rcases runningTick_fault_or_rom s with ⟨-, -, hopcode, htick⟩ | ⟨-, htick⟩
  · simp [htick, hopcode]
  · rw [htick]
    refine ⟨fun hne => ?ir, fun hne => ?flags, fun hne => ?mem, fun hne => ?sp, fun hne => ?output,
      fun hne => ?halted, fun hne => absurd (romTransfers_fault s) hne, romTransfers_cfg s⟩
    case ir => exact Classical.byContradiction fun hstep => hne (romTransfers_ir_of_ne hstep)
    case flags =>
      rw [Option.isSome_iff_ne_none]
      exact fun hidle => hne (romTransfers_flags_of_idle hidle)
    case mem => exact Classical.byContradiction fun hplace => hne (romTransfers_mem_of_not_store hplace)
    case sp => exact Classical.byContradiction fun hplace => hne (romTransfers_sp_of_not_mem hplace)
    case output =>
      have houtput := romTransfers_output (s := s)
      split at houtput
      · next hplace => exact ⟨hplace.1, hplace.2, houtput⟩
      · exact absurd (by simpa using houtput) hne
    case halted => exact Classical.byContradiction fun hplace => hne (romTransfers_halted_of_not_hlt hplace)

/-! Ticks that record a fault (R115, R116, R118). -/

/-- Settles O17: two or more drivers are asked for first, and the record answers every later tick. -/
theorem busContentionStopsTheTick : Obligations.BusContentionStopsTheTick := by
  intro word s hdrivers
  have htick : tickWord word s = s.setFault (some (.busContention word)) := if_pos hdrivers
  exact ⟨htick, htick ▸ tick_of_fault rfl⟩

/-- Settles O18: the check of phase 0 is exactly these conditions. -/
theorem invalidOpcodeStopsTheTick : Obligations.InvalidOpcodeStopsTheTick := by
  intro s hrunning hmode hstep hopcode
  rw [tick_of_running hrunning]
  rcases runningTick_fault_or_rom s with ⟨-, -, -, htick⟩ | ⟨hcheck, -⟩
  · rw [htick]; rfl
  · exact absurd ⟨hmode, hstep, (validOpcode_eq_false_iff s.ir).mpr hopcode⟩ hcheck

end Sys2Proof.Machine
end

section
/-! PROOF. The invariant of ticks (R22, R27, R28, R43, R67 (b), R74, R99, R106, R116): a tick that records a fault keeps
it, and so does a tick that follows the ROM. -/

namespace Sys2Proof.Machine

variable {s t : State}

/-! Ranges and the flag registers under one tick of the ROM. -/

theorem nextSp_lt {cfg : Config} {sp : Nat} (word : ControlWord) (hsize : 1 ≤ cfg.stackSize)
    (h : sp < cfg.stackSize) : nextSp word cfg sp < cfg.stackSize := by
  have hinc : (if asserts word .spInc then spIncremented cfg sp else sp) < cfg.stackSize := by
    split
    · exact spIncremented_lt sp hsize
    · exact h
  unfold nextSp
  dsimp only
  split
  · exact spDecremented_lt _ hsize
  · exact hinc

theorem nextStep_lt {cfg : Config} (word : ControlWord) (hsteps : 0 < cfg.nSteps) (step : Nat) :
    nextStep word cfg step < cfg.nSteps := by
  unfold nextStep
  split
  · exact hsteps
  · exact Nat.mod_lt _ hsteps

theorem flagReserved_aluPhase (hflags : flagReserved s.flags = false) (haluFlags : flagReserved s.aluFlags = false) :
    flagReserved (aluPhase s).flags = false ∧ flagReserved (aluPhase s).aluFlags = false := by
  rcases aluPhase_cases s with h | ⟨op, -, ⟨-, h⟩ | ⟨-, h⟩⟩
  · rw [h]; exact ⟨hflags, haluFlags⟩
  · simp [h, haluFlags]
  · simp [h, hflags]

theorem romTransfers_eq_tickWord (s : State) : romTransfers s = tickWord (rom s.ir s.stepCtr s.flags) s :=
  (tickWord_of_le (rom_at_most_one_driver ..)).symm

theorem flagReserved_romTransfers (hflags : flagReserved s.flags = false)
    (haluFlags : flagReserved s.aluFlags = false) :
    flagReserved (romTransfers s).flags = false ∧ flagReserved (romTransfers s).aluFlags = false := by
  obtain ⟨u, htick, -, -, hkept, hcopied⟩ := exists_beforeAluPhase (rom_at_most_one_driver s.ir s.stepCtr s.flags) s
  rw [romTransfers_eq_tickWord, htick]
  refine flagReserved_aluPhase ?_ (hkept ▸ haluFlags)
  rw [hcopied]
  split
  · exact haluFlags
  · exact hflags

theorem romTransfers_aluFlags_of_everyAluCycle (hmode : s.cfg.flagsMode = .everyAluCycle) :
    (romTransfers s).aluFlags = s.aluFlags := by
  obtain ⟨u, htick, hcfg, -, hkept, -⟩ := exists_beforeAluPhase (rom_at_most_one_driver s.ir s.stepCtr s.flags) s
  rw [romTransfers_eq_tickWord, htick, aluPhase_aluFlags_of_everyAluCycle (hcfg ▸ hmode), hkept]

/-! MAR and MBR (R39, R74). -/

/-- The access of a tick leaves MBR as the byte at MAR, whether it reads or writes. -/
theorem romTransfers_mbr (s : State) : (romTransfers s).mbr = (romTransfers s).mem.read (romTransfers s).mar := by
  rw [romTransfers, afterBusOut_mbr, afterBusOut_mem, afterBusOut_mar, ← busIn_mar]
  split
  · exact (Memory.read_write_same ..).symm
  · rfl

/-! STEP (R76): where it does not become 0 it advances by one, and no reset is asserted. -/

theorem romTransfers_stepCtr_of_ne_zero (hrange : s.stepCtr < s.cfg.nSteps) (h : (romTransfers s).stepCtr ≠ 0) :
    (romTransfers s).stepCtr = s.stepCtr + 1 ∧ asserts (rom s.ir s.stepCtr s.flags) .stepRst = false := by
  rw [romTransfers, afterBusOut_stepCtr, nextStep] at h ⊢
  split at h
  · exact absurd rfl h
  · next hreset =>
    rw [if_neg hreset]
    refine ⟨?_, by simpa using hreset⟩
    rcases Nat.lt_or_eq_of_le (Nat.succ_le_of_lt hrange) with hlt | heq
    · exact Nat.mod_eq_of_lt hlt
    · exact absurd (by rw [← Nat.succ_eq_add_one, heq, Nat.mod_self]) h

theorem romTransfers_stepCtr_of_stepRst (h : asserts (rom s.ir s.stepCtr s.flags) .stepRst = true) :
    (romTransfers s).stepCtr = 0 := by
  rw [romTransfers, afterBusOut_stepCtr, nextStep, if_pos h]

/-- PUSH and JSR address the slot of SP in the tick before they store (R108, R110). -/
theorem romTransfers_mar_of_store (hstep : s.stepCtr = 2) (hir : s.ir = 0x0D ∨ s.ir = 0x0F) :
    (romTransfers s).mar = stackAddr (romTransfers s).cfg (romTransfers s).sp := by
  have hword : rom s.ir s.stepCtr s.flags = wordSpToMar := by
    rcases hir with hir | hir <;> rw [hir, hstep] <;> rfl
  simp [romTransfers_eq_tickWord, hword, tickWord_wordSpToMar]

/-- The final used step stays where it is during the execute steps: IR is kept, and while FLAGS can change an ALU opcode
is in IR, whose words no flag selects. -/
theorem lastStep_romTransfers (hstep : s.stepCtr ≠ 1) :
    lastStep (romTransfers s).ir (romTransfers s).flags = lastStep s.ir s.flags := by
  have hir := romTransfers_ir_of_ne hstep
  cases hop : aluOpOf s.ir with
  | none => rw [romTransfers_flags_of_idle (by rw [hir, hop]), hir]
  | some op =>
    have hne {opcode : Byte} (hidle : aluOpOf opcode = none) : s.ir ≠ opcode := by
      rintro rfl
      simp [hop] at hidle
    rw [hir, lastStep, lastStep]
    rw [executeWords_congr (fun h => absurd h (hne rfl)) (fun h => absurd h (hne rfl)) fun h => absurd h (hne rfl)]

/-- A defined opcode has at least one execute word. -/
theorem two_le_lastStep {opcode : Byte} (h : validOpcode opcode = true) (flags : FlagWord) :
    2 ≤ lastStep opcode flags := by
  obtain ⟨i, rfl⟩ := exists_instr_of_validOpcode h
  have hticks := (tickCount_bounds i flags).1
  rw [tickCount_eq] at hticks
  omega

/-- While STEP does not return to 0, an opcode that is defined after the tick is within its microcode. -/
theorem romTransfers_withinMicrocode (hinv : TickInv s) (hstep : 2 ≤ (romTransfers s).stepCtr)
    (hvalid : validOpcode (romTransfers s).ir = true) :
    (romTransfers s).stepCtr ≤ lastStep (romTransfers s).ir (romTransfers s).flags := by
  obtain ⟨hnext, hreset⟩ := romTransfers_stepCtr_of_ne_zero hinv.stepInRange (by omega)
  by_cases hfetch : s.stepCtr = 1
  · have hlast := two_le_lastStep hvalid (romTransfers s).flags
    omega
  · rw [lastStep_romTransfers hfetch]
    rw [romTransfers_ir_of_ne hfetch] at hvalid
    have hwithin := hinv.withinMicrocode (by omega) hvalid
    have hne : s.stepCtr ≠ lastStep s.ir s.flags := by
      obtain ⟨i, hi⟩ := exists_instr_of_validOpcode hvalid
      rw [hi] at hreset ⊢
      rw [← Bool.not_eq_true] at hreset
      exact fun heq => hreset ((stepRst_rom_iff i s.flags (by omega)).mpr heq)
    omega

/-- HLT halts the machine and resets STEP, with its opcode in IR (R80, R86). -/
theorem romTransfers_of_halted (hrunning : Running s) (h : (romTransfers s).halted = true) :
    (romTransfers s).ir = 0x01 ∧ (romTransfers s).stepCtr = 0 := by
  have hplace : s.stepCtr = 2 ∧ s.ir = 0x01 := by
    by_contra hplace
    rw [romTransfers_halted_of_not_hlt hplace, hrunning.notHalted] at h
    cases h
  obtain ⟨hstep, hir⟩ := hplace
  refine ⟨by rw [romTransfers_ir_of_ne (by omega), hir], romTransfers_stepCtr_of_stepRst ?_⟩
  rw [hstep, hir]
  exact (by decide : asserts wordHalt .stepRst = true)

/-! The two kinds of tick. -/

/-- Recording an undefined opcode keeps the invariant: the check holds at STEP = 2 only, and no other field changes. -/
theorem tickInv_setFault (hinv : TickInv s) (hrunning : Running s) (hmode : s.cfg.undefinedMode = .fault)
    (hstep : 2 ≤ s.stepCtr) (hopcode : validOpcode s.ir = false) :
    TickInv (s.setFault (some (.invalidOpcode s.ir s.pc))) where
  cfgWellFormed := hinv.cfgWellFormed
  memWf := hinv.memWf
  spInRange := hinv.spInRange
  stepInRange := hinv.stepInRange
  flagsReserved := hinv.flagsReserved
  aluFlagsReserved := hinv.aluFlagsReserved
  aluFlagsAbsent := hinv.aluFlagsAbsent
  aluSettled := by rw [AluSettled, aluPhase_setFault, hinv.aluSettled]
  bufferCurrent := hinv.bufferCurrent
  storeAddress := hinv.storeAddress
  withinMicrocode := hinv.withinMicrocode
  undefinedStops := hinv.undefinedStops
  haltedByHlt hhalted := by simp [hrunning.notHalted] at hhalted
  faultPrecise record hrecord :=
    ⟨(Option.some.inj hrecord).symm, hopcode, Nat.le_antisymm (hinv.undefinedStops hmode hopcode) hstep, hmode⟩

/-- Following the ROM keeps the invariant. -/
theorem tickInv_romTransfers (hinv : TickInv s) (hrunning : Running s)
    (hcheck : ¬(s.cfg.undefinedMode = .fault ∧ 2 ≤ s.stepCtr ∧ validOpcode s.ir = false)) :
    TickInv (romTransfers s) := by
  have hcfg := romTransfers_cfg s
  obtain ⟨hsteps, hsize, -⟩ := (Config.wellFormed_iff s.cfg).mp hinv.cfgWellFormed
  obtain ⟨hflags, haluFlags⟩ := flagReserved_romTransfers hinv.flagsReserved hinv.aluFlagsReserved
  have hfault : (romTransfers s).fault = none := (romTransfers_fault s).trans hrunning.noFault
  have hsucc (h : (romTransfers s).stepCtr ≠ 0) : (romTransfers s).stepCtr = s.stepCtr + 1 :=
    (romTransfers_stepCtr_of_ne_zero hinv.stepInRange h).1
  exact
    { cfgWellFormed := hcfg ▸ hinv.cfgWellFormed
      memWf := by
        rw [romTransfers, afterBusOut_mem]
        split
        · exact Memory.wf_write _ _ hinv.memWf
        · exact hinv.memWf
      spInRange := by
        rw [hcfg, romTransfers, afterBusOut_sp]
        exact nextSp_lt _ hsize hinv.spInRange
      stepInRange := by
        rw [hcfg, romTransfers, afterBusOut_stepCtr]
        exact nextStep_lt _ (by omega) _
      flagsReserved := hflags
      aluFlagsReserved := haluFlags
      aluFlagsAbsent := fun hmode => by
        rw [hcfg] at hmode
        rw [romTransfers_aluFlags_of_everyAluCycle hmode, hinv.aluFlagsAbsent hmode]
      aluSettled := romTransfers_settled s
      bufferCurrent := fun _ => romTransfers_mbr s
      storeAddress := fun hstep hir => by
        have hbefore : s.stepCtr = 2 := by have := hsucc (by omega); omega
        rw [romTransfers_ir_of_ne (by omega)] at hir
        exact romTransfers_mar_of_store hbefore hir
      withinMicrocode := romTransfers_withinMicrocode hinv
      undefinedStops := fun hmode hopcode => by
        by_contra hstep
        have hbefore := hsucc (by omega)
        rw [romTransfers_ir_of_ne (by omega)] at hopcode
        exact hcheck ⟨hcfg ▸ hmode, by omega, hopcode⟩
      haltedByHlt := fun hhalted => by
        obtain ⟨hir, hstep⟩ := romTransfers_of_halted hrunning hhalted
        exact ⟨hir, hstep, hfault⟩
      faultPrecise := fun record hrecord => by simp [hfault] at hrecord }

theorem tickInv_runningTick (hinv : TickInv s) (hrunning : Running s) : TickInv (runningTick s) := by
  rcases runningTick_fault_or_rom s with ⟨hmode, hstep, hopcode, htick⟩ | ⟨hcheck, htick⟩
  · exact htick ▸ tickInv_setFault hinv hrunning hmode hstep hopcode
  · exact htick ▸ tickInv_romTransfers hinv hrunning hcheck

/-- Settles O45: a tick records a fault or follows the ROM, and each keeps the invariant. -/
theorem everyTickKeepsItsInvariant : Obligations.EveryTickKeepsItsInvariant := by
  intro s t hinv h
  obtain ⟨hrunning, rfl⟩ := tick_next h
  exact tickInv_runningTick hinv hrunning

end Sys2Proof.Machine
end

section
/-! PROOF. Instructions of one execute word that is no ALU instruction: HLT (R86), OUT (R107), and the moves (R113,
R114). The word applies one transfer to the fetched state and resets STEP. -/

namespace Sys2Proof.Machine

variable {i : Instr} {s t : State}

/-- MAR still addresses the opcode byte after the fetch, so a memory access there changes nothing (R39). -/
theorem executeStart_read_mar (hidle : aluOpOf i.opcode = none) (hholds : HoldsInstr i s) :
    (executeStart i s).mem.read (executeStart i s).mar = (executeStart i s).mbr := by
  simpa [executeStart_of_no_aluOp hidle] using read_pc_of_holdsInstr hholds

/-- A transfer that leaves IR and MBR alone and does not look at STEP. -/
structure IsTransfer (f : State → State) : Prop where
  keepsIr : ∀ u, (f u).ir = u.ir
  keepsMbr : ∀ u, (f u).mbr = u.mbr
  ignoresStep : ∀ u n, f (u.setStepCtr n) = (f u).setStepCtr n

/-- The one execute tick of an instruction whose word is a transfer and a reset of STEP. -/
theorem runningTick_executeStart_of_transfer {word : ControlWord} {f : State → State} (hf : IsTransfer f)
    (hidle : aluOpOf i.opcode = none) (hholds : HoldsInstr i s)
    (hword : rom i.opcode 2 (executeStart i s).flags = word)
    (htransfer : ∀ u, tickWord word u = aluPhase (((f u).setMbr (u.mem.read u.mar)).setStepCtr 0)) :
    runningTick (executeStart i s) = endInstr (f (fetchInstr i.opcode s)) := by
  have hstart : executeStart i s = (fetchInstr i.opcode s).setStepCtr 2 := executeStart_of_no_aluOp hidle
  calc runningTick (executeStart i s)
      = aluPhase ((f (executeStart i s)).setStepCtr 0) := by
        rw [runningTick_executeStart, hword, htransfer, executeStart_read_mar hidle hholds, ← hf.keepsMbr,
          State.setMbr_self]
    _ = (f (executeStart i s)).setStepCtr 0 := aluPhase_of_none (by simpa [hf.keepsIr] using hidle)
    _ = endInstr (f (fetchInstr i.opcode s)) := by rw [hstart, hf.ignoresStep, State.setStepCtr_setStepCtr, endInstr]

theorem ticksTo_three_of_transfer {word : ControlWord} {f : State → State} (hf : IsTransfer f)
    (hidle : aluOpOf i.opcode = none) (hready : Ready s) (hholds : HoldsInstr i s)
    (hexec : exec i s = .next (endInstr (f (fetchInstr i.opcode s))))
    (hword : rom i.opcode 2 (executeStart i s).flags = word)
    (htransfer : ∀ u, tickWord word u = aluPhase (((f u).setMbr (u.mem.read u.mar)).setStepCtr 0)) :
    TicksTo 3 s (endInstr (f (fetchInstr i.opcode s))) :=
  ticksTo_three hready hholds hexec (runningTick_executeStart_of_transfer hf hidle hholds hword htransfer)
    (endInstr_stepCtr _)

/-! The transfers. -/

theorem isTransfer_halt : IsTransfer fun u => u.setHalted true := ⟨fun _ => rfl, fun _ => rfl, fun _ _ => rfl⟩
theorem isTransfer_emit : IsTransfer fun u => u.setOutput (u.output ++ [u.a]) :=
  ⟨fun _ => rfl, fun _ => rfl, fun _ _ => rfl⟩
theorem isTransfer_aToB : IsTransfer fun u => u.setB u.a := ⟨fun _ => rfl, fun _ => rfl, fun _ _ => rfl⟩
theorem isTransfer_bToA : IsTransfer fun u => u.setA u.b := ⟨fun _ => rfl, fun _ => rfl, fun _ _ => rfl⟩
theorem isTransfer_skipOperand : IsTransfer skipOperand := ⟨fun _ => rfl, fun _ => rfl, fun _ _ => rfl⟩

/-! The meanings. -/

theorem exec_hlt : exec .hlt s = .next (endInstr ((fetchInstr Instr.hlt.opcode s).setHalted true)) := rfl
theorem exec_out : exec .out s = .next (endInstr ((fetchInstr Instr.out.opcode s).setOutput
    ((fetchInstr Instr.out.opcode s).output ++ [(fetchInstr Instr.out.opcode s).a]))) := rfl
theorem exec_movab : exec .movab s =
    .next (endInstr ((fetchInstr Instr.movab.opcode s).setB (fetchInstr Instr.movab.opcode s).a)) := rfl
theorem exec_movba : exec .movba s =
    .next (endInstr ((fetchInstr Instr.movba.opcode s).setA (fetchInstr Instr.movba.opcode s).b)) := rfl

/-! HLT, and the run that it ends (R86, R136). -/

/-- A bounded run goes on from where its first ticks lead. -/
theorem runTicks_add_of_ticks {n : Nat} (m : Nat) (h : ticks n s = .next t) : runTicks (n + m) s = runTicks m t := by
  induction n generalizing s with
  | zero =>
    rw [ticks, Host.Outcome.next.injEq] at h
    rw [Nat.zero_add, h]
  | succ n ih =>
    have hrunning : Running s := by
      cases htick : tick s with
      | next u => exact (tick_next htick).1
      | fault record => simp [ticks, htick] at h
      | refused reason => simp [ticks, htick] at h
    rw [ticks_succ n hrunning] at h
    rw [Nat.succ_add, runTicks]
    simp only [hrunning.noFault, hrunning.notHalted, Bool.false_eq_true, if_false]
    exact ih h

theorem runTicks_of_halted (n : Nat) (hfault : t.fault = none) (h : t.halted = true) :
    runTicks n t = .halted t t.a := by
  cases n <;> simp [runTicks, hfault, h]

/-- Settles O24: the third tick of HLT sets HALTED, and a halted machine has neither tick nor step. -/
theorem hltEndsTheRun : Obligations.HltEndsTheRun := by
  refine ⟨rfl, fun flags => wordHalt_eq, fun s hsettled => ?_⟩
  intro t
  have hhalted : endInstr ((fetchInstr Instr.hlt.opcode s).setHalted true) = t := by
    rw [fetchInstr_of_settled _ hsettled]
    rfl
  have hexec : exec .hlt s = .next t := exec_hlt.trans (congrArg Host.Outcome.next hhalted)
  refine ⟨hexec, fun hready hholds => ?_⟩
  have hticks : TicksTo 3 s t :=
    hhalted ▸ ticksTo_three_of_transfer isTransfer_halt rfl hready hholds exec_hlt rfl tickWord_wordHalt
  have hfault : t.fault = none := hready.running.noFault
  refine ⟨hticks, fun n hn => ?_, tick_of_halted hfault rfl, step_of_halted hfault rfl⟩
  obtain ⟨m, rfl⟩ := Nat.exists_eq_add_of_le hn
  rw [runTicks_add_of_ticks m hticks.ticksAnswer]
  exact runTicks_of_halted m hfault rfl

/-- Settles O29: OUT is its fetch and the transfer that emits A. -/
theorem outAppendsA : Obligations.OutAppendsA := by
  refine ⟨rfl, fun flags => wordOut_eq, fun s hsettled => ?_⟩
  intro t
  have hemitted : endInstr ((fetchInstr Instr.out.opcode s).setOutput
      ((fetchInstr Instr.out.opcode s).output ++ [(fetchInstr Instr.out.opcode s).a])) = t := by
    rw [fetchInstr_of_settled _ hsettled]
    rfl
  rw [← hemitted]
  exact ⟨exec_out, fun hready hholds =>
    ticksTo_three_of_transfer isTransfer_emit rfl hready hholds exec_out rfl tickWord_wordOut⟩

/-- Settles O34: each move is its fetch and the transfer of one register to the other. -/
theorem movesCopyOneRegister : Obligations.MovesCopyOneRegister := by
  refine ⟨rfl, rfl, fun flags => ⟨wordAToB_eq, wordBToA_eq⟩, fun s hsettled => ?_⟩
  intro tB tA
  have hcopiedB : endInstr ((fetchInstr Instr.movab.opcode s).setB (fetchInstr Instr.movab.opcode s).a) = tB := by
    rw [fetchInstr_of_settled _ hsettled]
    rfl
  have hcopiedA : endInstr ((fetchInstr Instr.movba.opcode s).setA (fetchInstr Instr.movba.opcode s).b) = tA := by
    rw [fetchInstr_of_settled _ hsettled]
    rfl
  rw [← hcopiedB, ← hcopiedA]
  exact ⟨exec_movab, fun hready hholds =>
      ticksTo_three_of_transfer isTransfer_aToB rfl hready hholds exec_movab rfl tickWord_wordAToB,
    exec_movba, fun hready hholds =>
      ticksTo_three_of_transfer isTransfer_bToA rfl hready hholds exec_movba rfl tickWord_wordBToA⟩

end Sys2Proof.Machine
end

section
/-! PROOF. The ALU instructions (R102 to R106): the ALU phase runs with the new opcode in the second tick of the fetch,
and once more after A is written. -/

namespace Sys2Proof.Machine

variable {s t : State} {op : AluOp}

/-- The instruction of an ALU opcode (R94). -/
def AluOp.instr : AluOp → Instr
  | .add => .add
  | .sub => .sub
  | .xor => .xor
  | .and => .and

@[simp] theorem AluOp.opcode_instr (op : AluOp) : op.instr.opcode = op.opcode := by cases op <;> rfl
theorem exec_aluOp_instr (op : AluOp) (s : State) : exec op.instr s = .next (aluInstr op s) := by cases op <;> rfl
theorem rom_aluOp (op : AluOp) (flags : FlagWord) : rom op.opcode 2 flags = wordAluToA := by cases op <;> rfl

/-! The flags of an ALU instruction, in each mode (the two columns of R106). -/

theorem aluInstr_flags_of_everyAluCycle (hmode : s.cfg.flagsMode = .everyAluCycle) :
    (aluInstr op s).flags = aluFlagWord op (aluResult op s.a s.b) s.b := by
  simp [aluInstr, aluInstrFlags, hmode]

theorem aluInstr_flags_of_atWriteback (hmode : s.cfg.flagsMode = .atWriteback) :
    (aluInstr op s).flags = aluFlagWord op s.a s.b := by
  simp [aluInstr, aluInstrFlags, hmode]

theorem aluInstr_aluFlags_of_everyAluCycle (hmode : s.cfg.flagsMode = .everyAluCycle) :
    (aluInstr op s).aluFlags = s.aluFlags := by
  simp [aluInstr, aluInstrFlags, hmode, aluPhase_aluFlags_of_everyAluCycle]

theorem aluInstr_aluFlags_of_atWriteback (hmode : s.cfg.flagsMode = .atWriteback) :
    (aluInstr op s).aluFlags = aluFlagWord op (aluResult op s.a s.b) s.b := by
  simp [aluInstr, aluInstrFlags, hmode]

/-! The ticks. -/

/-- The state between the fetch and the word ALU_OUT | A_IN | STEP_RST: the latch holds the result already. -/
theorem executeStart_alu (op : AluOp) (s : State) :
    (executeStart op.instr s).alu = aluResult op s.a s.b ∧
      (s.cfg.flagsMode = .atWriteback → (executeStart op.instr s).aluFlags = aluFlagWord op s.a s.b) := by
  have hop : aluOpOf ((fetchInstr op.instr.opcode s).setStepCtr 2).ir = some op := by simp
  rcases hmode : s.cfg.flagsMode with _ | _
  · rw [executeStart, aluPhase_of_everyAluCycle hop (by simpa using hmode)]
    simp
  · rw [executeStart, aluPhase_of_atWriteback hop (by simpa using hmode)]
    simp

/-- What the word leaves before the last ALU phase: A holds the result, and in at_writeback mode FLAGS its flags. -/
def aluWritten (op : AluOp) (s : State) : State :=
  ((if s.cfg.flagsMode = .atWriteback
    then ((executeStart op.instr s).setA (aluResult op s.a s.b)).setFlags (aluFlagWord op s.a s.b)
    else (executeStart op.instr s).setA (aluResult op s.a s.b)).setMbr op.opcode).setStepCtr 0

theorem runningTick_executeStart_aluOp (hholds : HoldsInstr op.instr s) :
    runningTick (executeStart op.instr s) = aluPhase (aluWritten op s) := by
  obtain ⟨hlatch, haluFlags⟩ := executeStart_alu op s
  have hcfg : (executeStart op.instr s).cfg = s.cfg := by simp [executeStart]
  have hread : (executeStart op.instr s).mem.read (executeStart op.instr s).mar = op.opcode := by
    simpa [executeStart] using read_pc_of_holdsInstr hholds
  rw [runningTick_executeStart, AluOp.opcode_instr, rom_aluOp, tickWord_wordAluToA, hread, hcfg, hlatch, aluWritten]
  split
  · next hmode => rw [haluFlags hmode]
  · rfl

/-- The last ALU phase computes with the result in A: what it leaves is the table of R106. -/
theorem aluPhase_aluWritten (op : AluOp) (s : State) : aluPhase (aluWritten op s) = aluInstr op s := by
  have hop : aluOpOf (aluWritten op s).ir = some op := by
    unfold aluWritten
    split <;> simp
  rcases hmode : s.cfg.flagsMode with _ | _
  · rw [aluPhase_of_everyAluCycle hop (by simp [aluWritten, hmode, executeStart])]
    apply State.eq_of_fields
    all_goals simp [aluWritten, hmode, executeStart, aluPhase_aluFlags_of_everyAluCycle,
      aluInstr_flags_of_everyAluCycle hmode, aluInstr_aluFlags_of_everyAluCycle hmode]
  · rw [aluPhase_of_atWriteback hop (by simp [aluWritten, hmode, executeStart])]
    apply State.eq_of_fields
    all_goals simp [aluWritten, hmode, executeStart, aluInstr_flags_of_atWriteback hmode,
      aluInstr_aluFlags_of_atWriteback hmode]

/-- Settles O28: the meaning is the table of R106, and the three ticks end in it. -/
theorem aluInstructionsLeaveTheirTable : Obligations.AluInstructionsLeaveTheirTable := by
  intro i op opcode hrow
  obtain ⟨rfl, rfl⟩ : i = op.instr ∧ opcode = op.opcode := by
    rcases hrow with ⟨rfl, rfl, rfl⟩ | ⟨rfl, rfl, rfl⟩ | ⟨rfl, rfl, rfl⟩ | ⟨rfl, rfl, rfl⟩
    all_goals exact ⟨rfl, rfl⟩
  refine ⟨by cases op <;> rfl, fun flags => (rom_aluOp op flags).trans wordAluToA_eq, fun s => ?_⟩
  intro a1 t
  have htable : aluInstr op s = t := by
    rcases hmode : s.cfg.flagsMode with _ | _
    · apply State.eq_of_fields
      all_goals simp [t, a1, hmode, aluInstr_flags_of_everyAluCycle hmode, aluInstr_aluFlags_of_everyAluCycle hmode]
    · apply State.eq_of_fields
      all_goals simp [t, a1, hmode, aluInstr_flags_of_atWriteback hmode, aluInstr_aluFlags_of_atWriteback hmode]
  have hexec : exec op.instr s = .next t := htable ▸ exec_aluOp_instr op s
  refine ⟨hexec, fun hready hholds => ticksTo_three hready hholds hexec ?_ rfl⟩
  rw [runningTick_executeStart_aluOp hholds, aluPhase_aluWritten, htable]

end Sys2Proof.Machine
end

section
/-! PROOF. The conditional jumps (R91 to R93): what the three have in common, taken and not taken. -/

namespace Sys2Proof.Machine

variable {i : Instr} {target : Byte} {tested : FlagWord → Bool} {s t : State}

/-- A conditional jump: its operand is the target, and one flag chooses its words and its meaning. -/
structure IsConditionalJump (i : Instr) (target : Byte) (tested : FlagWord → Bool) : Prop where
  operand : i.operand? = some target
  words : ∀ flags, executeWords i.opcode flags = conditionalJumpWords (tested flags)
  meaning : ∀ s, exec i s =
    .next (endInstr (conditionalJump (tested (fetchInstr i.opcode s).flags) target (fetchInstr i.opcode s)))

theorem isConditionalJump_jz (target : Byte) : IsConditionalJump (.jz target) target flagZ :=
  ⟨rfl, fun _ => rfl, fun _ => rfl⟩
theorem isConditionalJump_jn (target : Byte) : IsConditionalJump (.jn target) target flagN :=
  ⟨rfl, fun _ => rfl, fun _ => rfl⟩
theorem isConditionalJump_jc (target : Byte) : IsConditionalJump (.jc target) target flagC :=
  ⟨rfl, fun _ => rfl, fun _ => rfl⟩

theorem exec_of_taken (hjump : IsConditionalJump i target tested) (h : tested (aluPhase s).flags = true) :
    exec i s = .next (endInstr (takeJump target (fetchInstr i.opcode s))) := by
  rw [hjump.meaning, fetchInstr_flags, h, conditionalJump_eq, if_pos rfl]

theorem exec_of_notTaken (hjump : IsConditionalJump i target tested) (h : tested (aluPhase s).flags = false) :
    exec i s = .next (endInstr (skipOperand (fetchInstr i.opcode s))) := by
  rw [hjump.meaning, fetchInstr_flags, h, conditionalJump_eq, if_neg Bool.false_ne_true]

theorem ticksTo_four_of_taken (hjump : IsConditionalJump i target tested) (h : tested (aluPhase s).flags = true)
    (hready : Ready s) (hholds : HoldsInstr i s) :
    TicksTo 4 s (endInstr (takeJump target (fetchInstr i.opcode s))) :=
  ticksTo_four_of_jumpWords hjump.operand (by rw [hjump.words, h, conditionalJumpWords, if_pos rfl]) hready hholds
    (exec_of_taken hjump h)

/-- A jump that is not taken is a transfer: PC skips the operand byte. -/
theorem ticksTo_three_of_notTaken (hjump : IsConditionalJump i target tested) (h : tested (aluPhase s).flags = false)
    (hready : Ready s) (hholds : HoldsInstr i s) :
    TicksTo 3 s (endInstr (skipOperand (fetchInstr i.opcode s))) := by
  have hword : rom i.opcode 2 (executeStart i s).flags = wordSkipOperand := by
    rw [executeStart_flags_of_operand hjump.operand, rom, hjump.words, h]
    rfl
  exact ticksTo_three_of_transfer isTransfer_skipOperand (aluOpOf_opcode_of_operand hjump.operand) hready hholds
    (exec_of_notTaken hjump h) hword tickWord_wordSkipOperand

/-- From a settled state a jump that is not taken changes PC, MAR, MBR, IR and STEP only (R106). -/
theorem skipOperand_fetchInstr_of_settled {opcode : Byte} (hsettled : AluSettled s) :
    endInstr (skipOperand (fetchInstr opcode s)) =
      { s with pc := s.pc + 2, mar := s.pc, mbr := opcode, ir := opcode, stepCtr := 0 } := by
  have hpc : s.pc + 1 + 1 = s.pc + 2 := BitVec.add_assoc s.pc 1 1
  rw [skipOperand, fetchInstr_pc, hpc, fetchInstr_of_settled opcode hsettled]
  rfl

/-! The flags that the ALU instructions leave for a jump (R91 to R93). -/

/-- The rows of the statement pair each ALU instruction with its operation. -/
theorem eq_instr_of_row {op : AluOp}
    (h : i = .add ∧ op = .add ∨ i = .sub ∧ op = .sub ∨ i = .xor ∧ op = .xor ∨ i = .and ∧ op = .and) : i = op.instr := by
  rcases h with ⟨rfl, rfl⟩ | ⟨rfl, rfl⟩ | ⟨rfl, rfl⟩ | ⟨rfl, rfl⟩ <;> rfl

theorem eq_aluInstr_of_exec {op : AluOp} (h : exec op.instr s = .next t) : t = aluInstr op s := by
  rw [exec_aluOp_instr, Host.Outcome.next.injEq] at h
  exact h.symm

/-- Settles O27: each jump follows the words its flag chooses, and the flag is the one R106 leaves. -/
theorem conditionalJumpsTestOneFlag : Obligations.ConditionalJumpsTestOneFlag := by
  refine ⟨fun target i opcode tested hrow => ?jumps, fun s t hmode hexec => ?zero,
    fun i op hrow s t hexec => ⟨fun hmode => ?negativeEvery, fun hmode => ?negativeWriteback⟩,
    fun s t ha hb hexec => ?carry⟩
  case jumps =>
    obtain ⟨hjump, rfl⟩ : IsConditionalJump i target tested ∧ opcode = i.opcode := by
      rcases hrow with ⟨rfl, rfl, rfl⟩ | ⟨rfl, rfl, rfl⟩ | ⟨rfl, rfl, rfl⟩
      · exact ⟨isConditionalJump_jz target, rfl⟩
      · exact ⟨isConditionalJump_jn target, rfl⟩
      · exact ⟨isConditionalJump_jc target, rfl⟩
    refine ⟨by simp [encode, hjump.operand], fun flags h => ?_, fun flags h => ?_, fun s hsettled => ?_⟩
    · rw [rom, rom, hjump.words, h]
      exact ⟨wordPcToMar_eq, wordMemToPc_eq⟩
    · rw [rom, hjump.words, h]
      exact wordSkipOperand_eq
    · intro taken notTaken
      have htaken : endInstr (takeJump target (fetchInstr i.opcode s)) = taken :=
        takeJump_fetchInstr_of_settled hsettled
      have hnotTaken : endInstr (skipOperand (fetchInstr i.opcode s)) = notTaken :=
        skipOperand_fetchInstr_of_settled hsettled
      have hflags : (aluPhase s).flags = s.flags := congrArg State.flags hsettled
      rw [← htaken, ← hnotTaken, ← hflags]
      exact ⟨fun h => ⟨exec_of_taken hjump h, ticksTo_four_of_taken hjump h⟩,
        fun h => ⟨exec_of_notTaken hjump h, ticksTo_three_of_notTaken hjump h⟩⟩
  case zero =>
    obtain rfl : t = aluInstr .sub s := eq_aluInstr_of_exec hexec
    simp [aluInstr_flags_of_everyAluCycle hmode, aluResult]
  case negativeEvery =>
    obtain rfl := eq_instr_of_row hrow
    obtain rfl := eq_aluInstr_of_exec hexec
    simp [aluInstr_flags_of_everyAluCycle hmode, negativeFlag]
  case negativeWriteback =>
    obtain rfl := eq_instr_of_row hrow
    obtain rfl := eq_aluInstr_of_exec hexec
    simp [aluInstr_flags_of_atWriteback hmode, negativeFlag]
  case carry =>
    obtain rfl : t = aluInstr .add s := eq_aluInstr_of_exec hexec
    rcases hmode : s.cfg.flagsMode with _ | _
    · simp [aluInstr_flags_of_everyAluCycle hmode, ha, hb, aluResult, aluCarry]
    · simp [aluInstr_flags_of_atWriteback hmode, ha, hb, aluCarry]

end Sys2Proof.Machine
end

section
/-! PROOF. JSR and RTS (R110 to R112): the push of PUSH with PC for A, the operand read of JMP after it, and the pop of
POP with PC for A. -/

namespace Sys2Proof.Machine

variable {i : Instr} {target : Byte} {s t : State}

/-- An instruction of four execute words takes six ticks (R141). -/
theorem ticksTo_six {u₃ u₄ u₅ : State} (hready : Ready s) (hholds : HoldsInstr i s) (hexec : exec i s = .next t)
    (hfirst : runningTick (executeStart i s) = u₃) (hstep₃ : u₃.stepCtr = 3) (hrunning₃ : Running u₃)
    (hsecond : runningTick u₃ = u₄) (hstep₄ : u₄.stepCtr = 4) (hrunning₄ : Running u₄)
    (hthird : runningTick u₄ = u₅) (hstep₅ : u₅.stepCtr = 5) (hrunning₅ : Running u₅)
    (hlast : runningTick u₅ = t) (hend : t.stepCtr = 0) : TicksTo 6 s t := by
  have hticks (n : Nat) : ticks (n + 1) (executeStart i s) = ticks n u₃ := by
    rw [ticks_succ n (running_executeStart hready.running), hfirst]
  have hticks₃ (n : Nat) : ticks (n + 1) u₃ = ticks n u₄ := by rw [ticks_succ n hrunning₃, hsecond]
  have hticks₄ (n : Nat) : ticks (n + 1) u₄ = ticks n u₅ := by rw [ticks_succ n hrunning₄, hthird]
  refine ticksTo_of_execute_ticks (n := 4) hready hholds hexec ?_ hend fun k hpos hlt => ?_
  · rw [hticks, hticks₃, hticks₄, ticks_succ 0 hrunning₅, hlast, ticks]
  · match k with
    | 1 => exact ⟨u₃, hticks 0, hstep₃, hrunning₃⟩
    | 2 => exact ⟨u₄, (hticks 1).trans (hticks₃ 0), hstep₄, hrunning₄⟩
    | 3 => exact ⟨u₅, ((hticks 2).trans (hticks₃ 1)).trans (hticks₄ 0), hstep₅, hrunning₅⟩

/-! JSR. -/

/-- The state that JSR has fetched, with PC at its operand byte, and pushed. -/
def jsrPushed (target : Byte) (s : State) : State := pushByte (s.pc + 1) (fetchInstr (Instr.jsr target).opcode s)

/-- After PC_OUT | MAR_IN at step 4: the operand byte as it is after the push is in MBR, and its address in MAR. -/
def jsrAddressed (target : Byte) (s : State) : State :=
  (((jsrPushed target s).setMar (s.pc + 1)).setMbr
    (operandAfterPush target (fetchInstr (Instr.jsr target).opcode s))).setStepCtr 5

@[simp] theorem jsrAddressed_stepCtr : (jsrAddressed target s).stepCtr = 5 := rfl

theorem exec_jsr : exec (.jsr target) s = .next (endInstr
    (takeJump (operandAfterPush target (fetchInstr (Instr.jsr target).opcode s)) (jsrPushed target s))) := by
  simp [exec, execJsr, jsrPushed]

/-- The operand byte after the push (R110): the pushed byte where the push overwrote it. -/
theorem read_operand_jsrPushed (hholds : HoldsInstr (.jsr target) s) :
    (jsrPushed target s).mem.read (s.pc + 1) = operandAfterPush target (fetchInstr (Instr.jsr target).opcode s) := by
  have hoperand : s.mem.read (s.pc + 1) = target := read_operand_of_holdsInstr rfl hholds
  rw [jsrPushed, pushByte_mem, pushAddr_fetchInstr, fetchInstr_mem, Memory.read_write, hoperand, operandAfterPush,
    pushAddr_fetchInstr, fetchInstr_pc]
  simp only [eq_comm]

theorem runningTick_pushAddressed_jsr (hready : Ready s) :
    runningTick (pushAddressed (.jsr target) s) = (jsrPushed target s).setStepCtr 4 := by
  obtain ⟨hsteps, -, -⟩ := (Config.wellFormed_iff s.cfg).mp hready.cfgWellFormed
  have hadvanced : advanced (pushAddressed (.jsr target) s) = 4 := advanced_of_lt (by simp; omega)
  have hpc : (pushAddressed (.jsr target) s).pc = s.pc + 1 := by simp [pushAddressed]
  have hword : rom (Instr.jsr target).opcode 3 (pushAddressed (.jsr target) s).flags = wordPushPc := rfl
  have hpushed : ((((pushAddressed (.jsr target) s).setMbr (s.pc + 1)).setSp (spIncremented s.cfg s.sp)).setMem
      (s.mem.write (pushAddr s) (s.pc + 1))).setStepCtr 4 = (jsrPushed target s).setStepCtr 4 := by
    rw [jsrPushed, pushByte_fetchInstr]
    rfl
  rw [runningTick_of_ir pushAddressed_ir, pushAddressed_stepCtr, hword, tickWord_wordPushPc, hadvanced, hpc,
    pushAddressed_cfg, pushAddressed_sp, pushAddressed_mem, pushAddressed_mar, hpushed]
  exact aluPhase_of_none (by simp [jsrPushed]; rfl)

theorem runningTick_jsrPushed (hready : Ready s) (hholds : HoldsInstr (.jsr target) s) :
    runningTick ((jsrPushed target s).setStepCtr 4) = jsrAddressed target s := by
  obtain ⟨hsteps, -, -⟩ := (Config.wellFormed_iff s.cfg).mp hready.cfgWellFormed
  have hadvanced : advanced ((jsrPushed target s).setStepCtr 4) = 5 := advanced_of_lt (by simp [jsrPushed]; omega)
  have hir : ((jsrPushed target s).setStepCtr 4).ir = (Instr.jsr target).opcode := by simp [jsrPushed]
  have hpc : ((jsrPushed target s).setStepCtr 4).pc = s.pc + 1 := by simp [jsrPushed]
  have hword : rom (Instr.jsr target).opcode 4 ((jsrPushed target s).setStepCtr 4).flags = wordPcToMar := rfl
  rw [runningTick_of_ir hir, State.setStepCtr_stepCtr, hword, tickWord_wordPcToMar, hadvanced, hpc,
    State.setStepCtr_mem, read_operand_jsrPushed hholds]
  exact aluPhase_of_none (by simp [jsrPushed]; rfl)

theorem runningTick_jsrAddressed (hholds : HoldsInstr (.jsr target) s) : runningTick (jsrAddressed target s) =
    endInstr (takeJump (operandAfterPush target (fetchInstr (Instr.jsr target).opcode s)) (jsrPushed target s)) := by
  have hir : (jsrAddressed target s).ir = (Instr.jsr target).opcode := by simp [jsrAddressed, jsrPushed]
  have hword : rom (Instr.jsr target).opcode 5 (jsrAddressed target s).flags = wordMemToPc := rfl
  have hread : (jsrAddressed target s).mem.read (jsrAddressed target s).mar = (jsrAddressed target s).mbr := by
    simpa [jsrAddressed] using read_operand_jsrPushed hholds
  have hpc : (jsrPushed target s).pc = s.pc + 1 := by simp [jsrPushed]
  have hjumped : (((jsrAddressed target s).setPc (jsrAddressed target s).mbr).setMbr
      (jsrAddressed target s).mbr).setStepCtr 0 =
      endInstr (takeJump (operandAfterPush target (fetchInstr (Instr.jsr target).opcode s)) (jsrPushed target s)) := by
    rw [takeJump, hpc]
    rfl
  rw [runningTick_of_ir hir, jsrAddressed_stepCtr, hword, tickWord_wordMemToPc, hread, hjumped]
  exact aluPhase_of_none (by simp [jsrPushed]; rfl)

/-- From a settled state JSR changes memory, SP, PC, MAR, MBR, IR and STEP only (R106, R110). -/
theorem takeJump_jsrPushed_of_settled {operand : Byte} (hsettled : AluSettled s) :
    endInstr (takeJump operand (jsrPushed target s)) =
      { s with
        mem := s.mem.write (pushAddr s) (s.pc + 1), sp := (s.sp + 1) % s.cfg.stackSize, pc := operand, mar := s.pc + 1,
        mbr := operand, ir := 0x0F, stepCtr := 0 } := by
  rw [jsrPushed, pushByte_fetchInstr_of_settled hsettled]
  rfl

/-- Settles O32: JSR is its fetch, the two ticks of a push, and the two ticks of a jump to the byte read after it. -/
theorem jsrPushesThenReadsItsOperand : Obligations.JsrPushesThenReadsItsOperand := by
  refine fun target => ⟨rfl, fun flags => ⟨wordSpToMar_eq, wordPushPc_eq, wordPcToMar_eq, wordMemToPc_eq⟩,
    fun s hsettled => ?_⟩
  intro operand t
  have hoperand : operandAfterPush target (fetchInstr (Instr.jsr target).opcode s) = operand := by
    simp [operandAfterPush, operand]
  have hjumped : endInstr (takeJump (operandAfterPush target (fetchInstr (Instr.jsr target).opcode s))
      (jsrPushed target s)) = t := by
    rw [hoperand]
    exact takeJump_jsrPushed_of_settled hsettled
  have hmem : (jsrPushed target s).mem = t.mem := by simp [jsrPushed, t]
  have hexec : exec (.jsr target) s = .next t := hjumped ▸ exec_jsr
  refine ⟨hexec, fun hholds => ?_, fun hready hholds => ?_⟩
  · rw [← hoperand, ← read_operand_jsrPushed hholds, hmem]
  · have hrunning : Running (jsrPushed target s) :=
      ⟨by simp [jsrPushed, hready.running.noFault], by simp [jsrPushed, hready.running.notHalted]⟩
    exact ticksTo_six hready hholds hexec (runningTick_executeStart_spToMar rfl hready rfl)
      pushAddressed_stepCtr (running_pushAddressed hready.running)
      (runningTick_pushAddressed_jsr hready) rfl ⟨hrunning.noFault, hrunning.notHalted⟩
      (runningTick_jsrPushed hready hholds) rfl ⟨hrunning.noFault, hrunning.notHalted⟩
      ((runningTick_jsrAddressed hholds).trans hjumped) rfl

/-! RTS. -/

theorem exec_rts : exec .rts s =
    .next (endInstr ((popByte (fetchInstr Instr.rts.opcode s)).setPc (s.mem.read (popAddr s) + 1))) := by
  simp [exec, execRts]

/-- The last tick of RTS moves the popped byte from MBR to PC, and PC_INC steps past the operand of the JSR (R77). -/
theorem runningTick_popAddressed_rts : runningTick (popAddressed .rts s) =
    endInstr ((popByte (fetchInstr Instr.rts.opcode s)).setPc (s.mem.read (popAddr s) + 1)) := by
  have hmbr : (popAddressed .rts s).mbr = s.mem.read (popAddr s) := by simp [popAddressed]
  have hword : rom Instr.rts.opcode 4 (popAddressed .rts s).flags = wordReturn := rfl
  rw [runningTick_of_ir popAddressed_ir, popAddressed_stepCtr, hword, tickWord_wordReturn, popAddressed_read_mar, hmbr,
    aluPhase_of_none (by simp; rfl), ← hmbr]
  rfl

/-- Settles O33: RTS is its fetch, the two ticks of a pop, and a tick that loads PC with the byte and adds 1. -/
theorem rtsReturnsPastTheOperand : Obligations.RtsReturnsPastTheOperand := by
  refine ⟨rfl, fun flags => ⟨wordSpDec_eq, wordSpToMar_eq, wordReturn_eq⟩, fun s hsettled => ?_⟩
  intro t
  have hreturned : endInstr ((popByte (fetchInstr Instr.rts.opcode s)).setPc (s.mem.read (popAddr s) + 1)) = t := by
    rw [popByte_fetchInstr_of_settled hsettled]
    rfl
  rw [← hreturned]
  refine ⟨exec_rts, fun hready hholds => ?_⟩
  exact ticksTo_five hready hholds exec_rts
    (runningTick_executeStart_spDec rfl hready hholds rfl) popDecremented_stepCtr
    (running_popDecremented hready.running) (runningTick_popDecremented_spToMar rfl hready rfl)
    popAddressed_stepCtr (running_popAddressed hready.running) runningTick_popAddressed_rts (endInstr_stepCtr _)

end Sys2Proof.Machine
end

section
/-! PROOF. What each instruction changes and what it leaves alone (R14, R15, R24, R28, R30, R43), and what follows for
the stack (R108 to R112). -/

namespace Sys2Proof.Machine

variable {i : Instr} {s t : State}

/-! A conditional jump keeps all but PC, MAR and MBR, taken or not. -/

section ConditionalJump

variable (tested : Bool) (target : Byte) (s : State)

@[simp] theorem conditionalJump_cfg : (conditionalJump tested target s).cfg = s.cfg := by cases tested <;> rfl
@[simp] theorem conditionalJump_a : (conditionalJump tested target s).a = s.a := by cases tested <;> rfl
@[simp] theorem conditionalJump_b : (conditionalJump tested target s).b = s.b := by cases tested <;> rfl
@[simp] theorem conditionalJump_flags : (conditionalJump tested target s).flags = s.flags := by cases tested <;> rfl
@[simp] theorem conditionalJump_aluFlags : (conditionalJump tested target s).aluFlags = s.aluFlags := by
  cases tested <;> rfl
@[simp] theorem conditionalJump_alu : (conditionalJump tested target s).alu = s.alu := by cases tested <;> rfl
@[simp] theorem conditionalJump_sp : (conditionalJump tested target s).sp = s.sp := by cases tested <;> rfl
@[simp] theorem conditionalJump_halted : (conditionalJump tested target s).halted = s.halted := by
  cases tested <;> rfl
@[simp] theorem conditionalJump_fault : (conditionalJump tested target s).fault = s.fault := by cases tested <;> rfl
@[simp] theorem conditionalJump_output : (conditionalJump tested target s).output = s.output := by
  cases tested <;> rfl
@[simp] theorem conditionalJump_mem : (conditionalJump tested target s).mem = s.mem := by cases tested <;> rfl

end ConditionalJump

/-! The state that each meaning answers. -/

/-- The state that the meaning of an instruction answers (`exec_eq_answered`). -/
def answered (i : Instr) (s : State) : State :=
  match exec i s with
  | .next t => t
  | .fault _ => s
  | .refused _ => s

/-- Every meaning answers a next state from every state (R119). -/
theorem exec_eq_answered (i : Instr) (s : State) : exec i s = .next (answered i s) := by cases i <;> rfl

theorem eq_answered_of_exec (h : exec i s = .next t) : t = answered i s := by
  rw [exec_eq_answered, Host.Outcome.next.injEq] at h
  exact h.symm

section Answered

variable (addr target : Byte) (s : State)

@[simp] theorem answered_nop : answered .nop s = endInstr (fetchInstr Instr.nop.opcode s) := rfl
@[simp] theorem answered_hlt : answered .hlt s = endInstr ((fetchInstr Instr.hlt.opcode s).setHalted true) := rfl
@[simp] theorem answered_lda : answered (.lda addr) s =
    endInstr ((loadOperand addr (fetchInstr (Instr.lda addr).opcode s)).setA (s.mem.read addr)) := by
  rw [answered, exec_lda]
@[simp] theorem answered_ldb : answered (.ldb addr) s =
    endInstr ((loadOperand addr (fetchInstr (Instr.ldb addr).opcode s)).setB (s.mem.read addr)) := by
  rw [answered, exec_ldb]
@[simp] theorem answered_jmp : answered (.jmp target) s =
    endInstr (takeJump target (fetchInstr (Instr.jmp target).opcode s)) := rfl
@[simp] theorem answered_add : answered .add s = aluInstr .add s := rfl
@[simp] theorem answered_sub : answered .sub s = aluInstr .sub s := rfl
@[simp] theorem answered_xor : answered .xor s = aluInstr .xor s := rfl
@[simp] theorem answered_and : answered .and s = aluInstr .and s := rfl
@[simp] theorem answered_out : answered .out s = endInstr ((fetchInstr Instr.out.opcode s).setOutput
    ((fetchInstr Instr.out.opcode s).output ++ [(fetchInstr Instr.out.opcode s).a])) := rfl
@[simp] theorem answered_jz : answered (.jz target) s =
    endInstr (conditionalJump (flagZ (fetchInstr (Instr.jz target).opcode s).flags) target
      (fetchInstr (Instr.jz target).opcode s)) := rfl
@[simp] theorem answered_jn : answered (.jn target) s =
    endInstr (conditionalJump (flagN (fetchInstr (Instr.jn target).opcode s).flags) target
      (fetchInstr (Instr.jn target).opcode s)) := rfl
@[simp] theorem answered_jc : answered (.jc target) s =
    endInstr (conditionalJump (flagC (fetchInstr (Instr.jc target).opcode s).flags) target
      (fetchInstr (Instr.jc target).opcode s)) := rfl
@[simp] theorem answered_push : answered .push s = endInstr (pushByte s.a (fetchInstr Instr.push.opcode s)) := by
  rw [answered, exec_push]
@[simp] theorem answered_pop : answered .pop s =
    endInstr ((popByte (fetchInstr Instr.pop.opcode s)).setA (s.mem.read (popAddr s))) := by
  rw [answered, exec_pop]
@[simp] theorem answered_jsr : answered (.jsr target) s =
    endInstr (takeJump (operandAfterPush target (fetchInstr (Instr.jsr target).opcode s)) (jsrPushed target s)) := by
  rw [answered, exec_jsr]
@[simp] theorem answered_rts : answered .rts s =
    endInstr ((popByte (fetchInstr Instr.rts.opcode s)).setPc (s.mem.read (popAddr s) + 1)) := by
  rw [answered, exec_rts]
@[simp] theorem answered_movab : answered .movab s =
    endInstr ((fetchInstr Instr.movab.opcode s).setB (fetchInstr Instr.movab.opcode s).a) := rfl
@[simp] theorem answered_movba : answered .movba s =
    endInstr ((fetchInstr Instr.movba.opcode s).setA (fetchInstr Instr.movba.opcode s).b) := rfl

end Answered

/-! The frame of each field: the instructions that write it, and what the others keep. -/

section Frames

theorem answered_a_of_not_mem (h : i.opcode ∉ ([0x02, 0x05, 0x06, 0x07, 0x08, 0x0E, 0x12] : List Byte)) :
    (answered i s).a = s.a := by
  cases i <;> simp [Instr.opcode] at h <;> simp [jsrPushed]

theorem answered_b_of_not_mem (h : i.opcode ∉ ([0x03, 0x11] : List Byte)) : (answered i s).b = s.b := by
  cases i <;> simp [Instr.opcode] at h <;> simp [jsrPushed]

theorem answered_sp_of_not_mem (h : i.opcode ∉ ([0x0D, 0x0E, 0x0F, 0x10] : List Byte)) :
    (answered i s).sp = s.sp := by
  cases i <;> simp [Instr.opcode] at h <;> simp

theorem answered_output (i : Instr) (s : State) :
    (answered i s).output = s.output ++ if i.opcode = 0x09 then [s.a] else [] := by
  cases i <;> simp [Instr.opcode, jsrPushed]

theorem answered_halted (i : Instr) (s : State) : (answered i s).halted = (s.halted || i.opcode == 0x01) := by
  cases i <;> simp [Instr.opcode, jsrPushed]

theorem answered_fault (i : Instr) (s : State) : (answered i s).fault = s.fault := by cases i <;> simp [jsrPushed]

theorem answered_cfg (i : Instr) (s : State) : (answered i s).cfg = s.cfg := by cases i <;> simp [jsrPushed]

/-- What is not an ALU instruction leaves the flag registers and the latch as the ALU phase of its first tick left
them. -/
theorem answered_flags_of_not_mem (h : i.opcode ∉ ([0x05, 0x06, 0x07, 0x08] : List Byte)) :
    (answered i s).flags = (aluPhase s).flags ∧ (answered i s).aluFlags = (aluPhase s).aluFlags ∧
      (answered i s).alu = (aluPhase s).alu := by
  cases i <;> simp [Instr.opcode] at h <;> simp [jsrPushed]

theorem answered_mem_of_ne (hpush : i.opcode ≠ 0x0D) (hjsr : i.opcode ≠ 0x0F) : (answered i s).mem = s.mem := by
  cases i <;> simp [Instr.opcode] at hpush hjsr <;> simp

theorem answered_push_mem (s : State) : (answered .push s).mem = s.mem.write (pushAddr s) s.a := by simp

theorem answered_jsr_mem (target : Byte) (s : State) :
    (answered (.jsr target) s).mem = s.mem.write (pushAddr s) (s.pc + 1) := by simp [jsrPushed]

end Frames

/-- Settles O35: the meanings of all instructions but PUSH and JSR hand memory on. -/
theorem nonStoringInstructionsKeepMemory : Obligations.NonStoringInstructionsKeepMemory := by
  intro i s t h hpush hjsr a
  rw [eq_answered_of_exec h, answered_mem_of_ne hpush hjsr]

/-- Settles O36: the one write of PUSH and of JSR, read back at its address and at every other. -/
theorem pushAndJsrStoreOneByte : Obligations.PushAndJsrStoreOneByte := by
  intro i value s t hstore h
  have hmem : t.mem = s.mem.write (pushAddr s) value := by
    rw [eq_answered_of_exec h]
    rcases hstore with ⟨rfl, rfl⟩ | ⟨⟨target, rfl⟩, rfl⟩
    · exact answered_push_mem s
    · exact answered_jsr_mem target s
  refine ⟨?_, fun a ha => ?_, fun hcfg hsp => ?_⟩
  · rw [hmem, Memory.read_write_same]
  · rw [hmem, Memory.read_write_other _ _ _ _ ha]
  · obtain ⟨-, -, hsize⟩ := (Config.wellFormed_iff s.cfg).mp hcfg
    exact stackAddr_toNat hsp hsize

/-- Settles O37: the frames of the fields, put together. -/
theorem instructionsKeepOtherRegisters : Obligations.InstructionsKeepOtherRegisters := by
  intro i s t h
  obtain rfl := eq_answered_of_exec h
  refine ⟨answered_a_of_not_mem, answered_b_of_not_mem, answered_sp_of_not_mem, fun hout => ?_, fun hhlt => ?_,
    answered_fault i s, answered_cfg i s, fun hsettled halu => ?_⟩
  · rw [answered_output, if_neg hout, List.append_nil]
  · rw [answered_halted, beq_eq_false_iff_ne.mpr hhlt, Bool.or_false]
  · rw [AluSettled] at hsettled
    simpa only [hsettled] using answered_flags_of_not_mem (s := s) halu

/-! The stack. -/

/-- Settles O38: RTS pops the slot that JSR pushed to, which holds the address after the opcode byte of JSR. -/
theorem jsrThenRtsResumes : Obligations.JsrThenRtsResumes := by
  intro target s _ hsp
  refine ⟨_, _, exec_eq_answered (.jsr target) s, exec_eq_answered .rts _, ?pc, ?sp⟩
  case pc =>
    have haddr : popAddr (answered (.jsr target) s) = pushAddr s := by
      simp [popAddr, pushAddr, jsrPushed, spDecremented_spIncremented hsp]
    have hpc : s.pc + 1 + 1 = s.pc + 2 := BitVec.add_assoc s.pc 1 1
    rw [answered_rts, endInstr_pc, State.setPc_pc, haddr, answered_jsr_mem, Memory.read_write_same, hpc]
  case sp => simp [jsrPushed, spDecremented_spIncremented hsp]

/-- What pushing A `n` times leaves: besides the slots, every byte that held A before holds it still, since a slot that
the ring overwrites is overwritten with A. -/
theorem execTimes_push (n : Nat) : ∀ s : State, 1 ≤ s.cfg.stackSize → s.sp < s.cfg.stackSize →
    ∃ t, execTimes .push n s = .next t ∧ t.sp = (s.sp + n) % s.cfg.stackSize ∧ t.a = s.a ∧
      (∀ k, k < n → t.mem.read (stackAddr s.cfg ((s.sp + k) % s.cfg.stackSize)) = s.a) ∧
      (∀ addr, s.mem.read addr = s.a → t.mem.read addr = s.a) := by
  induction n with
  | zero =>
    intro s _ hsp
    exact ⟨s, rfl, (Nat.mod_eq_of_lt hsp).symm, rfl, fun k hk => absurd hk (Nat.not_lt_zero k), fun _ h => h⟩
  | succ n ih =>
    intro s hsize hsp
    have hcfg : (answered .push s).cfg = s.cfg := answered_cfg .push s
    have ha : (answered .push s).a = s.a := by simp
    have hnext : (answered .push s).sp = (s.sp + 1) % s.cfg.stackSize := by simp [spIncremented]
    have hread (addr : Byte) :
        (answered .push s).mem.read addr = if addr = pushAddr s then s.a else s.mem.read addr := by
      rw [answered_push_mem, Memory.read_write]
    obtain ⟨t, htimes, htsp, hta, hslots, hkept⟩ :=
      ih (answered .push s) (hcfg ▸ hsize) (by rw [hcfg, hnext]; exact Nat.mod_lt _ hsize)
    rw [hcfg, hnext] at htsp hslots
    rw [ha] at hta hslots hkept
    refine ⟨t, by rw [execTimes, exec_eq_answered]; exact htimes, ?sp, hta, fun k hk => ?slots,
      fun addr haddr => ?kept⟩
    case sp => rw [htsp, Nat.mod_add_mod, Nat.add_assoc, Nat.add_comm 1]
    case slots =>
      cases k with
      | zero =>
        refine hkept _ ((hread _).trans (if_pos ?_))
        rw [Nat.add_zero, Nat.mod_eq_of_lt hsp, pushAddr]
      | succ k =>
        have hslot := hslots k (Nat.lt_of_succ_lt_succ hk)
        rwa [Nat.mod_add_mod, Nat.add_assoc, Nat.add_comm 1] at hslot
    case kept =>
      refine hkept addr ?_
      rw [hread]
      split
      · rfl
      · exact haddr

/-- Settles O39: the induction over the pushes keeps one fact more, that no later push spoils a slot. -/
theorem stackPointerCountsPushes : Obligations.StackPointerCountsPushes := by
  intro n s hcfg hsp
  obtain ⟨-, hsize, -⟩ := (Config.wellFormed_iff s.cfg).mp hcfg
  obtain ⟨t, htimes, htsp, hta, hslots, -⟩ := execTimes_push n s hsize hsp
  exact ⟨t, htimes, htsp, hta, hslots⟩

/-! What raises a fault, and what wraps (R119). -/

/-- A tick leaves a fault only where it records an undefined opcode: no word of the ROM has two drivers (R116, R118). -/
theorem undefined_of_tick_fault (h : tick s = .next t) (hfault : t.fault ≠ none) :
    s.cfg.undefinedMode = .fault ∧ 2 ≤ s.stepCtr ∧ 0x13 ≤ s.ir.toNat := by
  obtain ⟨hrunning, rfl⟩ := tick_next h
  rcases runningTick_fault_or_rom s with ⟨hmode, hstep, hopcode, -⟩ | ⟨-, htick⟩
  · exact ⟨hmode, hstep, (validOpcode_eq_false_iff s.ir).mp hopcode⟩
  · rw [htick, romTransfers_fault] at hfault
    exact absurd hrunning.noFault hfault

/-- Settles O22: the meanings hand FAULT on, a tick records undefined opcodes only, and every register wraps. -/
theorem nothingElseRaisesAFault : Obligations.NothingElseRaisesAFault := by
  refine ⟨fun i s => ⟨answered i s, exec_eq_answered i s, answered_fault i s⟩, fun s t => undefined_of_tick_fault,
    fun s t h => ?add, fun s t h => ?sub, fun s t hpc h => ?nop, fun s t hcfg hsp h => ?push,
    fun s t hcfg hsp h => ?pop, fun s hpc => ?operand⟩
  case add =>
    rw [eq_answered_of_exec h, answered_add, aluInstr_a]
    exact BitVec.toNat_add s.a s.b
  case sub =>
    rw [eq_answered_of_exec h, answered_sub, aluInstr_a, aluResult, BitVec.toNat_sub]
    have := s.b.isLt
    omega
  case nop => simp [eq_answered_of_exec h, hpc]
  case push => simp [eq_answered_of_exec h, spIncremented, hsp]
  case pop =>
    obtain ⟨-, hsize, -⟩ := (Config.wellFormed_iff s.cfg).mp hcfg
    have hlast : spDecremented s.cfg 0 = s.cfg.stackSize - 1 := by
      rw [spDecremented, Nat.zero_add, Nat.mod_eq_of_lt (by omega)]
    simp only [eq_answered_of_exec h, answered_pop, endInstr_sp, State.setA_sp, popByte_sp, fetchInstr_cfg,
      fetchInstr_sp, hsp, hlast]
    omega
  case operand => simp [fetchBytes, hpc]

end Sys2Proof.Machine
end

section
/-! PROOF. Undefined opcodes (R116, R117): two ticks of fetch, and then a recorded fault or execute steps that do
nothing. -/

namespace Sys2Proof.Machine

variable {s t u : State}

theorem aluOpOf_of_undefined {opcode : Byte} (h : validOpcode opcode = false) : aluOpOf opcode = none := by
  cases hop : aluOpOf opcode with
  | none => rfl
  | some op => simp [validOpcode_of_aluOpOf hop] at h

/-- The fetch of an undefined opcode: no ALU phase runs on it (R82). -/
theorem fetch_of_undefined (hready : Ready s) (h : validOpcode (s.mem.read s.pc) = false) :
    runningTick (runningTick s) = (fetchInstr (s.mem.read s.pc) s).setStepCtr 2 ∧ (runningTick s).stepCtr = 1 ∧
      Running (runningTick s) := by
  obtain ⟨hsteps, -, -⟩ := (Config.wellFormed_iff s.cfg).mp hready.cfgWellFormed
  obtain ⟨hfetched, hstep, hrunning⟩ := fetch_ticks hready.running (by omega) hready.atFetch
  refine ⟨hfetched.trans (aluPhase_of_none ?_), hstep, hrunning⟩
  simpa using aluOpOf_of_undefined h

theorem running_fetchInstr (hrunning : Running s) (opcode : Byte) (step : Nat) :
    Running ((fetchInstr opcode s).setStepCtr step) :=
  ⟨by simp [hrunning.noFault], by simp [hrunning.notHalted]⟩

theorem ticks_two_of_undefined (n : Nat) (hready : Ready s) (h : validOpcode (s.mem.read s.pc) = false) :
    ticks (n + 2) s = ticks n ((fetchInstr (s.mem.read s.pc) s).setStepCtr 2) := by
  obtain ⟨hfetched, -, hrunning⟩ := fetch_of_undefined hready h
  rw [ticks_succ (n + 1) hready.running, ticks_succ n hrunning, hfetched]

/-! In fault mode the third tick records the fault. -/

theorem step_of_undefined_fault (hrunning : Running s) (hstep : s.stepCtr = 0) (hmode : s.cfg.undefinedMode = .fault)
    (h : validOpcode (s.mem.read s.pc) = false) :
    step s = .next (((fetchInstr (s.mem.read s.pc) s).setStepCtr 2).setFault
      (some (.invalidOpcode (s.mem.read s.pc) (s.pc + 1)))) := by
  rw [step_of_undefined hrunning hstep h]
  rcases undefinedOpcode_cases s with ⟨-, hmeaning⟩ | ⟨hmode', -⟩
  · rw [hmeaning, raiseFault_eq]
  · rw [hmode] at hmode'
    cases hmode'

theorem ticks_three_of_undefined_fault (hready : Ready s) (hmode : s.cfg.undefinedMode = .fault)
    (h : validOpcode (s.mem.read s.pc) = false) :
    ticks 3 s = .next (((fetchInstr (s.mem.read s.pc) s).setStepCtr 2).setFault
      (some (.invalidOpcode (s.mem.read s.pc) (s.pc + 1)))) := by
  have hstop := invalidOpcodeStopsTheTick ((fetchInstr (s.mem.read s.pc) s).setStepCtr 2)
    (running_fetchInstr hready.running _ _) (by simpa using hmode) (by simp)
    (by simpa using (validOpcode_eq_false_iff _).mp h)
  rw [ticks_two_of_undefined 1 hready h]
  simp [ticks, hstop, State.setFault]

/-- Settles O19: two ticks fetch the byte, and the third meets the check of phase 0. -/
theorem undefinedOpcodeFaultsPrecisely : Obligations.UndefinedOpcodeFaultsPrecisely := by
  intro s hready hmode hopcode opcode fetched stopped
  have hundefined : validOpcode (s.mem.read s.pc) = false := (validOpcode_eq_false_iff _).mpr hopcode
  have hfetched : (fetchInstr (s.mem.read s.pc) s).setStepCtr 2 = fetched := by
    rw [fetchInstr_of_settled _ hready.aluSettled]
    rfl
  have hstopped : ((fetchInstr (s.mem.read s.pc) s).setStepCtr 2).setFault
      (some (.invalidOpcode (s.mem.read s.pc) (s.pc + 1))) = stopped := by
    rw [hfetched]
    rfl
  rw [← hstopped, ← hfetched]
  exact ⟨ticks_two_of_undefined 0 hready hundefined, ticks_three_of_undefined_fault hready hmode hundefined,
    step_of_undefined_fault hready.running hready.atFetch hmode hundefined, step_of_fault rfl⟩

/-! In rom_literal mode every execute step holds the all-zero word, which only advances STEP. -/

theorem runningTick_of_literal {opcode : Byte} {step : Nat} (hmode : s.cfg.undefinedMode = .romLiteral)
    (h : validOpcode opcode = false) (hread : s.mem.read s.pc = opcode) (hstep : 2 ≤ step) :
    runningTick ((fetchInstr opcode s).setStepCtr step) =
      (fetchInstr opcode s).setStepCtr ((step + 1) % s.cfg.nSteps) := by
  have hword : rom opcode step (fetchInstr opcode s).flags = 0 := rom_of_undefined h hstep _
  rcases runningTick_fault_or_rom ((fetchInstr opcode s).setStepCtr step) with ⟨hfault, -⟩ | ⟨-, htick⟩
  · simp [hmode] at hfault
  · rw [htick, romTransfers_eq_tickWord]
    have hrefreshed : ((fetchInstr opcode s).setStepCtr step).mem.read ((fetchInstr opcode s).setStepCtr step).mar =
        ((fetchInstr opcode s).setStepCtr step).mbr := by simpa using hread
    rw [State.setStepCtr_ir, fetchInstr_ir, State.setStepCtr_stepCtr, State.setStepCtr_flags, hword, tickWord_zero,
      hrefreshed, State.setMbr_self, State.setStepCtr_setStepCtr, advanced, State.setStepCtr_stepCtr,
      State.setStepCtr_cfg, fetchInstr_cfg]
    exact aluPhase_of_none (by simpa using aluOpOf_of_undefined h)

/-- Ticks go on from where the first ones lead. -/
theorem ticks_add_of_ticks {n : Nat} (m : Nat) (h : ticks n s = .next t) : ticks (n + m) s = ticks m t := by
  induction n generalizing s with
  | zero =>
    rw [ticks, Host.Outcome.next.injEq] at h
    rw [Nat.zero_add, h]
  | succ n ih =>
    cases htick : tick s with
    | next u =>
      simp only [ticks, htick] at h
      rw [Nat.succ_add, ticks, htick]
      exact ih h
    | fault record => simp [ticks, htick] at h
    | refused reason => simp [ticks, htick] at h

/-- While STEP has room it counts the ticks of the undefined opcode. -/
theorem ticks_of_literal (hready : Ready s) (hmode : s.cfg.undefinedMode = .romLiteral)
    (h : validOpcode (s.mem.read s.pc) = false) (k : Nat) : k + 2 < s.cfg.nSteps →
    ticks (k + 2) s = .next ((fetchInstr (s.mem.read s.pc) s).setStepCtr (k + 2)) := by
  induction k with
  | zero => intro _; exact ticks_two_of_undefined 0 hready h
  | succ k ih =>
    intro hk
    rw [ticks_add_of_ticks 1 (ih (by omega)), ticks_succ 0 (running_fetchInstr hready.running _ _),
      runningTick_of_literal hmode h rfl (by omega), Nat.mod_eq_of_lt (by omega), ticks]

theorem ticksTo_of_literal (hready : Ready s) (hmode : s.cfg.undefinedMode = .romLiteral)
    (h : validOpcode (s.mem.read s.pc) = false) :
    TicksTo s.cfg.nSteps s (endInstr (fetchInstr (s.mem.read s.pc) s)) where
  stepAnswers := by
    rw [step_of_undefined hready.running hready.atFetch h]
    rcases undefinedOpcode_cases s with ⟨hmode', -⟩ | ⟨-, hmeaning⟩
    · rw [hmode] at hmode'
      cases hmode'
    · rw [hmeaning]
  ticksAnswer := by
    obtain ⟨hsteps, -, -⟩ := (Config.wellFormed_iff s.cfg).mp hready.cfgWellFormed
    obtain ⟨k, hk⟩ : ∃ k, s.cfg.nSteps = k + 2 + 1 := ⟨s.cfg.nSteps - 3, by omega⟩
    have hlast := ticks_add_of_ticks 1 (ticks_of_literal hready hmode h k (by omega))
    rw [hk, hlast, ticks_succ 0 (running_fetchInstr hready.running _ _), runningTick_of_literal hmode h rfl (by omega),
      hk, Nat.mod_self, ticks, endInstr]
  endsAtFetch := endInstr_stepCtr _
  inProgress k hpos hlt := by
    match k with
    | 1 =>
      obtain ⟨-, hstep, hrunning⟩ := fetch_of_undefined hready h
      exact ⟨runningTick s, ticks_succ 0 hready.running, hstep, hrunning⟩
    | k + 2 => exact ⟨_, ticks_of_literal hready hmode h k hlt, rfl, running_fetchInstr hready.running _ _⟩

/-- Settles O20: after its fetch the byte has no execute word that does more than advance STEP, which wraps. -/
theorem undefinedOpcodeIsLiteralNoOp : Obligations.UndefinedOpcodeIsLiteralNoOp := by
  intro s hready hmode hopcode opcode
  have hended : endInstr (fetchInstr opcode s) =
      { s with pc := s.pc + 1, mar := s.pc, mbr := opcode, ir := opcode, stepCtr := 0 } := by
    rw [fetchInstr_of_settled _ hready.aluSettled]
    rfl
  rw [← hended]
  exact ticksTo_of_literal hready hmode ((validOpcode_eq_false_iff _).mpr hopcode)

end Sys2Proof.Machine
end

section
/-! PROOF. The ticks of every instruction (R141), and what a whole step is: a run of ticks that ends with the first one
to end an instruction or the run (R69, R76). -/

namespace Sys2Proof.Machine

variable {i : Instr} {s t u : State}

/-- A conditional jump takes four ticks or three, by its flag. -/
theorem exists_ticksTo_of_conditionalJump {target : Byte} {tested : FlagWord → Bool}
    (hjump : IsConditionalJump i target tested) (hready : Ready s) (hholds : HoldsInstr i s) :
    ∃ t, exec i s = .next t ∧ TicksTo (if tested s.flags then 4 else 3) s t := by
  have hflags : (aluPhase s).flags = s.flags := congrArg State.flags hready.aluSettled
  cases h : tested s.flags with
  | true =>
    rw [← hflags] at h
    exact ⟨_, exec_of_taken hjump h, ticksTo_four_of_taken hjump h hready hholds⟩
  | false =>
    rw [← hflags] at h
    exact ⟨_, exec_of_notTaken hjump h, ticksTo_three_of_notTaken hjump h hready hholds⟩

theorem exists_ticksTo_of_aluOp {op : AluOp} (hready : Ready s) (hholds : HoldsInstr op.instr s) :
    ∃ t, exec op.instr s = .next t ∧ TicksTo 3 s t :=
  ⟨_, exec_aluOp_instr op s, ticksTo_three hready hholds (exec_aluOp_instr op s)
    ((runningTick_executeStart_aluOp hholds).trans (aluPhase_aluWritten op s)) (aluInstr_stepCtr s op)⟩

/-- What the statement of an instruction says of a settled state, where the instruction can start. -/
theorem exists_ticksTo_of_meaning {n : Nat} (h : exec i s = .next t ∧ (Ready s → HoldsInstr i s → TicksTo n s t))
    (hready : Ready s) (hholds : HoldsInstr i s) : ∃ t, exec i s = .next t ∧ TicksTo n s t :=
  ⟨t, h.1, h.2 hready hholds⟩

/-- Settles O43: the statement of each instruction gives its ticks. -/
theorem instructionsTakeTheirTicks : Obligations.InstructionsTakeTheirTicks := by
  intro i s hready hholds
  have hsettled := hready.aluSettled
  cases i with
  | nop =>
    obtain ⟨-, -, hmeaning⟩ := nopOnlyFetches
    exact exists_ticksTo_of_meaning (hmeaning s hsettled) hready hholds
  | hlt =>
    obtain ⟨-, -, hmeaning⟩ := hltEndsTheRun
    obtain ⟨hexec, hrun⟩ := hmeaning s hsettled
    obtain ⟨hticks, -, -, -⟩ := hrun hready hholds
    exact ⟨_, hexec, hticks⟩
  | lda addr =>
    obtain ⟨-, -, -, hmeaning⟩ := loadsReadTheAbsoluteAddress addr
    obtain ⟨hexec, hticks, -, -⟩ := hmeaning s hsettled
    exact exists_ticksTo_of_meaning ⟨hexec, hticks⟩ hready hholds
  | ldb addr =>
    obtain ⟨-, -, -, hmeaning⟩ := loadsReadTheAbsoluteAddress addr
    obtain ⟨-, -, hldb⟩ := hmeaning s hsettled
    exact exists_ticksTo_of_meaning hldb hready hholds
  | jmp target =>
    obtain ⟨-, -, hmeaning⟩ := jmpTransfersControl target
    exact exists_ticksTo_of_meaning (hmeaning s hsettled) hready hholds
  | add => exact exists_ticksTo_of_aluOp (op := .add) hready hholds
  | sub => exact exists_ticksTo_of_aluOp (op := .sub) hready hholds
  | xor => exact exists_ticksTo_of_aluOp (op := .xor) hready hholds
  | and => exact exists_ticksTo_of_aluOp (op := .and) hready hholds
  | out =>
    obtain ⟨-, -, hmeaning⟩ := outAppendsA
    exact exists_ticksTo_of_meaning (hmeaning s hsettled) hready hholds
  | jz target => exact exists_ticksTo_of_conditionalJump (isConditionalJump_jz target) hready hholds
  | jn target => exact exists_ticksTo_of_conditionalJump (isConditionalJump_jn target) hready hholds
  | jc target => exact exists_ticksTo_of_conditionalJump (isConditionalJump_jc target) hready hholds
  | push =>
    obtain ⟨-, -, hmeaning⟩ := pushStoresAndIncrements
    exact exists_ticksTo_of_meaning (hmeaning s hsettled) hready hholds
  | pop =>
    obtain ⟨-, -, hmeaning, -⟩ := popDecrementsAndLoads
    exact exists_ticksTo_of_meaning (hmeaning s hsettled) hready hholds
  | jsr target =>
    obtain ⟨-, -, hmeaning⟩ := jsrPushesThenReadsItsOperand target
    obtain ⟨hexec, -, hticks⟩ := hmeaning s hsettled
    exact exists_ticksTo_of_meaning ⟨hexec, hticks⟩ hready hholds
  | rts =>
    obtain ⟨-, -, hmeaning⟩ := rtsReturnsPastTheOperand
    exact exists_ticksTo_of_meaning (hmeaning s hsettled) hready hholds
  | movab =>
    obtain ⟨-, -, -, hmeaning⟩ := movesCopyOneRegister
    obtain ⟨hexec, hticks, -, -⟩ := hmeaning s hsettled
    exact exists_ticksTo_of_meaning ⟨hexec, hticks⟩ hready hholds
  | movba =>
    obtain ⟨-, -, -, hmeaning⟩ := movesCopyOneRegister
    obtain ⟨-, -, hmovba⟩ := hmeaning s hsettled
    exact exists_ticksTo_of_meaning hmovba hready hholds

/-! Runs of ticks to the end of an instruction or of the run. -/

/-- `n` ticks from `s` answer `t`, and the last of them is the first to end an instruction or the run. -/
structure EndsAfter (n : Nat) (s t : State) : Prop where
  ticksAnswer : ticks n s = .next t
  ended : instructionEnded t = true
  inProgress : ∀ k, 0 < k → k < n → ∃ u, ticks k s = .next u ∧ instructionEnded u = false

theorem instructionEnded_eq_false_iff (u : State) : instructionEnded u = false ↔ u.stepCtr ≠ 0 ∧ Running u := by
  simp only [instructionEnded, Bool.or_eq_false_iff, decide_eq_false_iff_not, Option.isSome_eq_false_iff,
    Option.isNone_iff_eq_none]
  exact ⟨fun ⟨⟨hstep, hhalted⟩, hfault⟩ => ⟨hstep, hfault, hhalted⟩,
    fun ⟨hstep, hfault, hhalted⟩ => ⟨⟨hstep, hhalted⟩, hfault⟩⟩

theorem instructionEnded_of_stepCtr (h : u.stepCtr = 0) : instructionEnded u = true := by simp [instructionEnded, h]

theorem endsAfter_of_ticksTo {n : Nat} (h : TicksTo n s t) : EndsAfter n s t where
  ticksAnswer := h.ticksAnswer
  ended := instructionEnded_of_stepCtr h.endsAtFetch
  inProgress k hpos hlt := by
    obtain ⟨u, hticks, hstep, hrunning⟩ := h.inProgress k hpos hlt
    exact ⟨u, hticks, (instructionEnded_eq_false_iff u).mpr ⟨by omega, hrunning⟩⟩

theorem endsAfter_one (hrunning : Running s) (h : instructionEnded (runningTick s) = true) :
    EndsAfter 1 s (runningTick s) where
  ticksAnswer := ticks_succ 0 hrunning
  ended := h
  inProgress k hpos hlt := by omega

theorem endsAfter_succ {n : Nat} (hrunning : Running s) (hprogress : instructionEnded (runningTick s) = false)
    (h : EndsAfter n (runningTick s) t) : EndsAfter (n + 1) s t where
  ticksAnswer := (ticks_succ n hrunning).trans h.ticksAnswer
  ended := h.ended
  inProgress k hpos hlt := by
    match k with
    | 1 => exact ⟨runningTick s, ticks_succ 0 hrunning, hprogress⟩
    | k + 2 =>
      rw [ticks_succ (k + 1) hrunning]
      exact h.inProgress (k + 1) (Nat.succ_pos k) (by omega)

/-! In the middle of an instruction a step runs the ticks that are left. -/

theorem runningTick_cfg (s : State) : (runningTick s).cfg = s.cfg := by
  rcases runningTick_fault_or_rom s with ⟨-, -, -, htick⟩ | ⟨-, htick⟩
  · rw [htick, State.setFault_cfg]
  · rw [htick, romTransfers_cfg]

/-- A tick that ends neither an instruction nor the run advances STEP, and a step is left. -/
theorem runningTick_stepCtr_of_inProgress (hrange : s.stepCtr < s.cfg.nSteps)
    (h : instructionEnded (runningTick s) = false) :
    (runningTick s).stepCtr = s.stepCtr + 1 ∧ s.stepCtr + 1 < s.cfg.nSteps := by
  obtain ⟨hstep, hrunning⟩ := (instructionEnded_eq_false_iff _).mp h
  rcases runningTick_fault_or_rom s with ⟨-, -, -, htick⟩ | ⟨-, htick⟩
  · simp [htick] at hrunning
    cases hrunning.noFault
  · rw [htick] at hstep ⊢
    have hadvanced := (romTransfers_stepCtr_of_ne_zero hrange hstep).1
    have hlt : (romTransfers s).stepCtr < s.cfg.nSteps := by
      rw [romTransfers, afterBusOut_stepCtr]
      exact nextStep_lt _ (by omega) _
    exact ⟨hadvanced, hadvanced ▸ hlt⟩

/-- Ticks end an instruction or the run before STEP can pass N_STEPS. -/
theorem exists_endsAfter_of_ticksToEnd (bound : Nat) : ∀ {s : State}, Running s → s.stepCtr < s.cfg.nSteps →
    s.cfg.nSteps ≤ s.stepCtr + bound →
    ∃ n t, 0 < n ∧ s.stepCtr + n ≤ s.cfg.nSteps ∧ ticksToEnd bound s = .next t ∧ EndsAfter n s t := by
  induction bound with
  | zero => intro s _ hrange hbound; omega
  | succ bound ih =>
    intro s hrunning hrange hbound
    have hstart : ticksToEnd (bound + 1) s =
        if instructionEnded (runningTick s) then .next (runningTick s) else ticksToEnd bound (runningTick s) := by
      rw [ticksToEnd, tick_of_running hrunning]
    cases hended : instructionEnded (runningTick s) with
    | true => exact ⟨1, _, Nat.one_pos, hrange, by rw [hstart, hended, if_pos rfl], endsAfter_one hrunning hended⟩
    | false =>
      have hcfg := runningTick_cfg s
      obtain ⟨hstep, hlt⟩ := runningTick_stepCtr_of_inProgress hrange hended
      obtain ⟨-, hrunning'⟩ := (instructionEnded_eq_false_iff _).mp hended
      obtain ⟨n, t, hpos, hle, hends, hafter⟩ :=
        ih hrunning' (by rw [hstep, hcfg]; exact hlt) (by rw [hstep, hcfg]; omega)
      rw [hstep, hcfg] at hle
      exact ⟨n + 1, t, Nat.succ_pos n, by omega, by rw [hstart, hended, if_neg Bool.false_ne_true, hends],
        endsAfter_succ hrunning hended hafter⟩

/-! At an instruction boundary a step sees the state through the fetch only, so it may as well start after the ALU
phase, in a state that has settled (R106). -/

/-- A meaning reads the state through its fetch, and A, B and memory, which the fetch keeps. -/
theorem exec_congr_of_fetch (h : ∀ opcode, fetchInstr opcode s = fetchInstr opcode t) (i : Instr) :
    exec i s = exec i t := by
  have ha : s.a = t.a := by simpa using congrArg State.a (h 0)
  have hb : s.b = t.b := by simpa using congrArg State.b (h 0)
  cases i <;> simp only [exec, execNop, execHlt, execLda, execLdb, execJmp, execAdd, execSub, execXor, execAnd, execOut,
    execJz, execJn, execJc, execPush, execPop, execJsr, execRts, execMovab, execMovba, aluInstr, h, ha, hb]

/-- Two states of a run that the fetch does not tell apart answer the same step at an instruction boundary. -/
theorem step_congr_of_fetch (h : ∀ opcode, fetchInstr opcode s = fetchInstr opcode t) (hrunning : Running s)
    (hstep : s.stepCtr = 0) : step s = step t := by
  have hcfg : s.cfg = t.cfg := by simpa using congrArg State.cfg (h 0)
  have hpc : s.pc = t.pc := by simpa using congrArg State.mar (h 0)
  have hmem : s.mem = t.mem := by simpa using congrArg State.mem (h 0)
  have hfault : s.fault = t.fault := by simpa using congrArg State.fault (h 0)
  have hhalted : s.halted = t.halted := by simpa using congrArg State.halted (h 0)
  have hstep' : s.stepCtr = t.stepCtr := by simpa using congrArg State.stepCtr (h 0)
  have hrunning' : Running t := ⟨hfault ▸ hrunning.noFault, hhalted ▸ hrunning.notHalted⟩
  rcases holdsInstr_or_undefined s with ⟨i, hholds⟩ | hundefined
  · have hholds' : HoldsInstr i t := by simpa [HoldsInstr, fetchBytes, hmem, hpc] using hholds
    rw [step_of_holdsInstr hrunning hstep hholds, step_of_holdsInstr hrunning' (hstep' ▸ hstep) hholds',
      exec_congr_of_fetch h]
  · have hundefined' : validOpcode (t.mem.read t.pc) = false := by rwa [← hmem, ← hpc]
    rw [step_of_undefined hrunning hstep hundefined, step_of_undefined hrunning' (hstep' ▸ hstep) hundefined',
      undefinedOpcode, undefinedOpcode, hcfg, hmem, hpc, h]

theorem runningTick_aluPhase (hstep : s.stepCtr = 0) : runningTick (aluPhase s) = runningTick s := by
  have hword (u : State) (hu : u.stepCtr = 0) : runningTick u = tickWord wordPcToMar u := by
    rw [runningTick_of_rom (.inl (by omega)), hu]
    rfl
  rw [hword s hstep, hword _ (by simpa using hstep)]
  simp [tickWord_wordPcToMar, advanced, aluPhase_setStepCtr, aluPhase_setMbr, aluPhase_setMar]

theorem ready_aluPhase (hcfg : s.cfg.wellFormed = true) (hrunning : Running s) (hstep : s.stepCtr = 0) :
    Ready (aluPhase s) where
  cfgWellFormed := by simpa using hcfg
  running := ⟨by simpa using hrunning.noFault, by simpa using hrunning.notHalted⟩
  atFetch := by simpa using hstep
  aluSettled := aluPhase_aluPhase s

theorem endsAfter_of_aluPhase {n : Nat} (hpos : 0 < n) (hrunning : Running s) (hstep : s.stepCtr = 0)
    (h : EndsAfter n (aluPhase s) t) : EndsAfter n s t := by
  have hticks (k : Nat) (hk : 0 < k) : ticks k s = ticks k (aluPhase s) := by
    obtain ⟨k, rfl⟩ := Nat.exists_eq_add_of_le' hk
    have hrunning' : Running (aluPhase s) := ⟨by simpa using hrunning.noFault, by simpa using hrunning.notHalted⟩
    rw [ticks_succ k hrunning, ticks_succ k hrunning', runningTick_aluPhase hstep]
  refine ⟨hticks n hpos ▸ h.ticksAnswer, h.ended, fun k hk hlt => ?_⟩
  rw [hticks k hk]
  exact h.inProgress k hk hlt

/-- Where an instruction can start, a step is a run of ticks: of an instruction, or of an undefined opcode in either
mode. -/
theorem exists_endsAfter_of_ready (hready : Ready s) :
    ∃ n t, 0 < n ∧ n ≤ s.cfg.nSteps ∧ step s = .next t ∧ EndsAfter n s t := by
  obtain ⟨hsteps, -, -⟩ := (Config.wellFormed_iff s.cfg).mp hready.cfgWellFormed
  rcases holdsInstr_or_undefined s with ⟨i, hholds⟩ | hundefined
  · obtain ⟨t, -, hticks⟩ := instructionsTakeTheirTicks i s hready hholds
    obtain ⟨hfrom, hto⟩ := tickCount_bounds i s.flags
    exact ⟨tickCount i s.flags, t, by omega, by omega, hticks.stepAnswers, endsAfter_of_ticksTo hticks⟩
  · cases hmode : s.cfg.undefinedMode with
    | fault =>
      refine ⟨3, _, by omega, by omega,
        step_of_undefined_fault hready.running hready.atFetch hmode hundefined,
        ticks_three_of_undefined_fault hready hmode hundefined, by simp [instructionEnded], fun k hpos hlt => ?_⟩
      match k with
      | 1 =>
        obtain ⟨-, hstep, hrunning⟩ := fetch_of_undefined hready hundefined
        exact ⟨_, ticks_succ 0 hready.running, (instructionEnded_eq_false_iff _).mpr ⟨by omega, hrunning⟩⟩
      | 2 =>
        exact ⟨_, ticks_two_of_undefined 0 hready hundefined,
          (instructionEnded_eq_false_iff _).mpr ⟨by simp, running_fetchInstr hready.running _ _⟩⟩
    | romLiteral =>
      have hticks := ticksTo_of_literal hready hmode hundefined
      exact ⟨s.cfg.nSteps, _, by omega, le_rfl, hticks.stepAnswers, endsAfter_of_ticksTo hticks⟩

/-- In every state of a run that has not ended, a step is a run of ticks. -/
theorem exists_endsAfter (hcfg : s.cfg.wellFormed = true) (hrunning : Running s) (hrange : s.stepCtr < s.cfg.nSteps) :
    ∃ n t, 0 < n ∧ n ≤ s.cfg.nSteps ∧ step s = .next t ∧ EndsAfter n s t := by
  by_cases hstep : s.stepCtr = 0
  · obtain ⟨n, t, hpos, hle, hanswer, hafter⟩ := exists_endsAfter_of_ready (ready_aluPhase hcfg hrunning hstep)
    have hsame : step s = step (aluPhase s) :=
      step_congr_of_fetch (fun opcode => (fetchInstr_aluPhase s opcode).symm) hrunning hstep
    exact ⟨n, t, hpos, by simpa using hle, hsame.trans hanswer, endsAfter_of_aluPhase hpos hrunning hstep hafter⟩
  · obtain ⟨n, t, hpos, hle, hends, hafter⟩ :=
      exists_endsAfter_of_ticksToEnd (s.cfg.nSteps + 1) hrunning hrange (by omega)
    have hanswer : step s = ticksToEnd (s.cfg.nSteps + 1) s := by
      simp [step, hrunning.noFault, hrunning.notHalted, hstep]
    exact ⟨n, t, hpos, by omega, hanswer.trans hends, hafter⟩

/-- Settles O42: at a boundary the step of the settled state is a run of ticks, and elsewhere it is those ticks. -/
theorem stepIsARunOfTicks : Obligations.StepIsARunOfTicks := by
  intro s hcfg hrunning hrange
  obtain ⟨n, t, hpos, hle, hanswer, hafter⟩ := exists_endsAfter hcfg hrunning hrange
  exact ⟨n, t, hpos, hle, hanswer, hafter.ticksAnswer, hafter.ended, hafter.inProgress⟩

end Sys2Proof.Machine
end

section
/-! PROOF. What ticks keep, steps keep: the invariant (R22, R116) and the program region (R37, R43). -/

namespace Sys2Proof.Machine

variable {s t : State}

/-- What every tick carries from one state to the next, any number of ticks carries (of the states that meet the
invariant). -/
theorem ticks_induction {carries : State → State → Prop} (hrefl : ∀ u, carries u u)
    (htrans : ∀ u v w, carries u v → carries v w → carries u w)
    (htick : ∀ u v, TickInv u → tick u = .next v → carries u v) (n : Nat) :
    ∀ {s : State}, TickInv s → ticks n s = .next t → TickInv t ∧ carries s t := by
  induction n with
  | zero =>
    intro s hinv h
    rw [ticks, Host.Outcome.next.injEq] at h
    exact h ▸ ⟨hinv, hrefl s⟩
  | succ n ih =>
    intro s hinv h
    cases hfirst : tick s with
    | next u =>
      simp only [ticks, hfirst] at h
      obtain ⟨hinv', hcarries⟩ := ih (everyTickKeepsItsInvariant s u hinv hfirst) h
      exact ⟨hinv', htrans s u t (htick s u hinv hfirst) hcarries⟩
    | fault record => simp [ticks, hfirst] at h
    | refused reason => simp [ticks, hfirst] at h

theorem tickInv_of_ticks {n : Nat} (hinv : TickInv s) (h : ticks n s = .next t) : TickInv t :=
  (ticks_induction (carries := fun _ _ => True) (fun _ => trivial) (fun _ _ _ _ _ => trivial) (fun _ _ _ _ => trivial) n
    hinv h).1

/-- A step of a state that meets the invariant is a run of ticks. -/
theorem exists_ticks_of_step (hinv : TickInv s) (h : step s = .next t) : ∃ n, EndsAfter n s t := by
  obtain ⟨n, t', -, -, hanswer, hafter⟩ := exists_endsAfter hinv.cfgWellFormed (running_of_step h) hinv.stepInRange
  rw [h, Host.Outcome.next.injEq] at hanswer
  exact ⟨n, hanswer ▸ hafter⟩

/-- Settles O46: the ticks of a step keep their invariant, and the last of them ends an instruction or the run. -/
theorem everyStepKeepsItsInvariant : Obligations.EveryStepKeepsItsInvariant := by
  intro s t hinv h
  obtain ⟨n, hafter⟩ := exists_ticks_of_step hinv.tickInv h
  have hinv' := tickInv_of_ticks hinv.tickInv hafter.ticksAnswer
  refine ⟨hinv', fun hfault => ?_⟩
  have hended := hafter.ended
  simp only [instructionEnded, hfault, Option.isSome_none, Bool.or_false, Bool.or_eq_true, decide_eq_true_eq] at hended
  rcases hended with hstep | hhalted
  · exact hstep
  · exact (hinv'.haltedByHlt hhalted).2.1

/-! The program region. -/

/-- The parameters and every byte of the program region are as they were. -/
def KeepsProgram (s t : State) : Prop :=
  t.cfg = s.cfg ∧ ∀ addr : Byte, addr.toNat < s.cfg.stackOffset → t.mem.read addr = s.mem.read addr

theorem KeepsProgram.refl (s : State) : KeepsProgram s s := ⟨rfl, fun _ _ => rfl⟩

theorem KeepsProgram.trans {s t u : State} (hst : KeepsProgram s t) (htu : KeepsProgram t u) : KeepsProgram s u := by
  obtain ⟨hcfg, hst⟩ := hst
  obtain ⟨hcfg', htu⟩ := htu
  exact ⟨hcfg'.trans hcfg, fun addr haddr => (htu addr (hcfg ▸ haddr)).trans (hst addr haddr)⟩

/-- The two words that store write at MAR, as it stands before the tick. -/
theorem romTransfers_mem_of_store (hstep : s.stepCtr = 3) (hir : s.ir = 0x0D ∨ s.ir = 0x0F) :
    ∃ value, (romTransfers s).mem = s.mem.write s.mar value := by
  rw [romTransfers_eq_tickWord, hstep]
  rcases hir with hir | hir
  · have hword : rom s.ir 3 s.flags = wordPushA := by rw [hir]; rfl
    exact ⟨s.a, by rw [hword, tickWord_wordPushA]; simp⟩
  · have hword : rom s.ir 3 s.flags = wordPushPc := by rw [hir]; rfl
    exact ⟨s.pc, by rw [hword, tickWord_wordPushPc]; simp⟩

/-- A tick stores at a stack address or not at all (R43). -/
theorem keepsProgram_of_tick (hinv : TickInv s) (h : tick s = .next t) : KeepsProgram s t := by
  obtain ⟨hrunning, rfl⟩ := tick_next h
  refine ⟨runningTick_cfg s, fun addr haddr => ?_⟩
  rcases runningTick_fault_or_rom s with ⟨-, -, -, htick⟩ | ⟨-, htick⟩
  · rw [htick, State.setFault_mem]
  · rw [htick]
    by_cases hstore : s.stepCtr = 3 ∧ (s.ir = 0x0D ∨ s.ir = 0x0F)
    · obtain ⟨hstep, hir⟩ := hstore
      obtain ⟨value, hmem⟩ := romTransfers_mem_of_store hstep hir
      obtain ⟨-, -, hsize⟩ := (Config.wellFormed_iff s.cfg).mp hinv.cfgWellFormed
      have hmar := stackAddr_toNat hinv.spInRange hsize
      rw [← hinv.storeAddress hstep hir] at hmar
      have hne : addr ≠ s.mar := by
        rintro rfl
        omega
      rw [hmem, Memory.read_write_other _ _ _ _ hne]
    · rw [romTransfers_mem_of_not_store hstore]

/-- Settles O40: each tick keeps the program region, so the ticks of a step do. -/
theorem programRegionIsNeverWritten : Obligations.ProgramRegionIsNeverWritten := by
  refine ⟨fun s t hinv h addr haddr => ?_, fun s t hinv h => (keepsProgram_of_tick hinv h).2⟩
  obtain ⟨n, hafter⟩ := exists_ticks_of_step hinv.tickInv h
  obtain ⟨-, -, hkept⟩ := ticks_induction (carries := KeepsProgram) KeepsProgram.refl (fun _ _ _ => KeepsProgram.trans)
    (fun _ _ => keepsProgram_of_tick) n hinv.tickInv hafter.ticksAnswer
  exact hkept addr haddr

/-! What a step shows to the outside (R86, R107, R116). -/

theorem undefinedOpcode_shows (s : State) :
    (undefinedOpcode s).halted = s.halted ∧ (undefinedOpcode s).output = s.output ∧
      ((undefinedOpcode s).fault = if s.cfg.undefinedMode = .fault
        then some (.invalidOpcode (s.mem.read s.pc) (s.pc + 1)) else s.fault) := by
  rcases undefinedOpcode_cases s with ⟨hmode, hmeaning⟩ | ⟨hmode, hmeaning⟩ <;> simp [hmode, hmeaning]

/-- Settles O44: the byte at PC is the opcode of an instruction, whose frames say what it shows, or an undefined one. -/
theorem onlyHltHaltsAndOnlyOutEmits : Obligations.OnlyHltHaltsAndOnlyOutEmits := by
  intro s t hstep h
  have hrunning := running_of_step h
  rcases holdsInstr_or_undefined s with ⟨i, hholds⟩ | hundefined
  · have hbyte := read_pc_of_holdsInstr hholds
    have hdefined := validOpcode_opcode i
    rw [step_of_holdsInstr hrunning hstep hholds] at h
    obtain rfl := eq_answered_of_exec h
    rw [hbyte, answered_halted, answered_fault, answered_output, hrunning.notHalted, hrunning.noFault,
      ← validOpcode_eq_false_iff]
    simp [hdefined]
  · obtain ⟨hhalted, houtput, hfault⟩ := undefinedOpcode_shows s
    have hrange := (validOpcode_eq_false_iff _).mp hundefined
    have hne (v : Byte) (hv : v.toNat < 0x13) : s.mem.read s.pc ≠ v := by
      rintro rfl
      omega
    rw [step_of_undefined hrunning hstep hundefined, Host.Outcome.next.injEq] at h
    subst h
    rw [hhalted, hfault, houtput, hrunning.notHalted, hrunning.noFault, if_neg (hne 0x09 (by decide))]
    simpa [hrange] using hne 0x01 (by decide)

end Sys2Proof.Machine
end

section
/-! PROOF. Reset and loading (R32, R131 to R135). -/

namespace Sys2Proof.Machine

variable {cfg : Config} {image : List Byte} {s : State}

/-- Settles O49: the fields of the record, and a memory without entries. -/
theorem resetValues : Obligations.ResetValues :=
  ⟨rfl, rfl, rfl, rfl, rfl, rfl, rfl, rfl, rfl, rfl, rfl, rfl, rfl, rfl, fun _ => rfl⟩

/-- NOP is in IR at reset, so the ALU phase has nothing to write. -/
theorem aluSettled_resetWith (cfg : Config) (mem : Memory) : AluSettled (State.resetWith cfg mem) :=
  aluPhase_of_none rfl

theorem stepInv_resetWith {mem : Memory} (hcfg : cfg.wellFormed = true) (hmem : mem.wf = true) :
    StepInv (State.resetWith cfg mem) := by
  obtain ⟨hsteps, hsize, -⟩ := (Config.wellFormed_iff cfg).mp hcfg
  have hstep : (State.resetWith cfg mem).stepCtr = 0 := rfl
  have hreserved : flagReserved 0b00000 = false := by decide
  exact
    { tickInv :=
        { cfgWellFormed := hcfg
          memWf := hmem
          spInRange := hsize
          stepInRange := show 0 < cfg.nSteps by omega
          flagsReserved := hreserved
          aluFlagsReserved := hreserved
          aluFlagsAbsent := fun _ => rfl
          aluSettled := aluSettled_resetWith cfg mem
          bufferCurrent := fun h => absurd hstep h
          storeAddress := fun h => by omega
          withinMicrocode := fun h => by omega
          undefinedStops := fun _ _ => by omega
          haltedByHlt := fun h => nomatch h
          faultPrecise := fun _ h => nomatch h }
      atBoundary := fun _ => rfl }

/-- Settles O47: the reference parameters meet their constraints, and the empty memory is canonical. -/
theorem resetMeetsTheInvariant : Obligations.ResetMeetsTheInvariant := stepInv_resetWith (by decide) rfl

theorem ready_resetWith {mem : Memory} (hcfg : cfg.wellFormed = true) : Ready (State.resetWith cfg mem) where
  cfgWellFormed := hcfg
  running := ⟨rfl, rfl⟩
  atFetch := rfl
  aluSettled := aluSettled_resetWith cfg mem

/-! Loading an image. -/

theorem boot_of_length (h : image.length = cfg.stackOffset) :
    boot cfg (some image) = .ok (State.resetWith cfg (imageMemory image)) := by
  simp [boot, imageAccepted, h]

theorem boot_of_wrong_length (h : image.length ≠ cfg.stackOffset) :
    boot cfg (some image) = .error (.wrongLength image.length) := by
  simp [boot, imageAccepted, h]

/-- An image is accepted at its right length only, and then the machine is reset with it. -/
theorem length_of_boot (h : boot cfg (some image) = .ok s) :
    image.length = cfg.stackOffset ∧ s = State.resetWith cfg (imageMemory image) := by
  by_cases hlength : image.length = cfg.stackOffset
  · rw [boot_of_length hlength, Except.ok.injEq] at h
    exact ⟨hlength, h.symm⟩
  · simp [boot_of_wrong_length hlength] at h

/-- An accepted image fits below 256, so its memory is canonical. -/
theorem wf_imageMemory (h : image.length ≤ 256) : (imageMemory image).wf = true :=
  Memory.wf_writeList (by omega) rfl

theorem read_imageMemory (image : List Byte) (addr : Byte) :
    (imageMemory image).read addr = if addr.toNat < image.length then image.getD addr.toNat 0 else 0 := by
  simp [imageMemory, Memory.read, Memory.readAt_writeList, Memory.unlisted]

/-- Settles O48: an accepted image is loaded into canonical memory, and everything else is reset. -/
theorem bootMeetsTheInvariant : Obligations.BootMeetsTheInvariant := by
  intro cfg image s hcfg hboot
  obtain ⟨hlength, rfl⟩ := length_of_boot hboot
  have hfits : image.length ≤ 256 := by
    rw [hlength, Config.stackOffset]
    omega
  exact ⟨stepInv_resetWith hcfg (wf_imageMemory hfits), ready_resetWith hcfg, rfl⟩

/-- Settles O50: the one check is the length, and the image is read back byte by byte. -/
theorem imageIsLoadedVerbatimOrRefused : Obligations.ImageIsLoadedVerbatimOrRefused := by
  refine fun cfg image _ => ⟨rfl, boot_of_wrong_length, fun hlength => ?_⟩
  refine ⟨_, boot_of_length hlength, rfl, fun addr haddr => ?inside, fun addr haddr => ?above⟩
  case inside =>
    change _ = some ((imageMemory image).read addr)
    rw [read_imageMemory, if_pos haddr, List.getElem?_eq_getElem haddr, List.getD_eq_getElem _ _ haddr]
  case above =>
    change (imageMemory image).read addr = 0
    rw [read_imageMemory, if_neg (by omega)]

end Sys2Proof.Machine
end

section
/-! PROOF. A jump to itself (R90, R136): four ticks lead back to a state in which the same jump starts. -/

namespace Sys2Proof.Machine

/-- However many ticks are allowed, the run has not ended: after four of them the same argument applies again. -/
theorem exists_running_after_ticks (bound : Nat) : ∀ {s : State}, Ready s → HoldsInstr (.jmp s.pc) s →
    ∃ t, ticks bound s = .next t ∧ Running t := by
  induction bound using Nat.strong_induction_on with
  | _ bound ih =>
    intro s hready hholds
    obtain ⟨-, -, hmeaning⟩ := jmpTransfersControl s.pc
    obtain ⟨-, hjump⟩ := hmeaning s hready.aluSettled
    have hticks := hjump hready hholds
    rcases Nat.lt_or_ge bound 4 with hlt | hge
    · rcases Nat.eq_zero_or_pos bound with rfl | hpos
      · exact ⟨s, rfl, hready.running⟩
      · obtain ⟨u, hanswer, -, hrunning⟩ := hticks.inProgress bound hpos hlt
        exact ⟨u, hanswer, hrunning⟩
    · obtain ⟨m, rfl⟩ := Nat.exists_eq_add_of_le hge
      rw [ticks_add_of_ticks m hticks.ticksAnswer]
      exact ih m (by omega)
        { cfgWellFormed := hready.cfgWellFormed
          running := ⟨hready.running.noFault, hready.running.notHalted⟩
          atFetch := rfl
          aluSettled := aluPhase_of_none rfl } hholds

/-- Settles O51: a run that has not ended after its bound reports so. -/
theorem jumpToItselfNeverEnds : Obligations.JumpToItselfNeverEnds := by
  intro s bound hready hholds
  obtain ⟨t, hticks, hrunning⟩ := exists_running_after_ticks bound hready hholds
  refine ⟨t, hticks, ?_⟩
  have hreport := runTicks_add_of_ticks 0 hticks
  rw [Nat.add_zero] at hreport
  simp [hreport, runTicks, hrunning.noFault, hrunning.notHalted]

end Sys2Proof.Machine
end

section
/-! PROOF. What FLAGS describes after an ALU instruction (R106, R138). -/

namespace Sys2Proof.Machine

/-- AND applied again to its own result changes nothing, so both columns of R106 agree. -/
theorem aluFlagWord_and_again (a b : Byte) : aluFlagWord .and (aluResult .and a b) b = aluFlagWord .and a b := by
  have hresult : aluResult .and (aluResult .and a b) b = aluResult .and a b := by
    simp [aluResult, BitVec.and_assoc]
  simp [aluFlagWord, hresult]

/-- XOR applied again gives back the old A. -/
theorem aluResult_xor_again (a b : Byte) : aluResult .xor (aluResult .xor a b) b = a := by
  simp [aluResult]

/-- Settles O52: the flags are those of the second computation or of the first, by the mode. -/
theorem flagHazardOfEachMode : Obligations.FlagHazardOfEachMode := by
  refine ⟨fun s t h => ?sub, fun s t h => ?add, fun s t hmode h => ?xor, fun s t h => ?and⟩
  case sub =>
    obtain rfl : t = aluInstr .sub s := eq_aluInstr_of_exec h
    constructor <;> intro hmode
    · rw [aluInstr_flags_of_everyAluCycle hmode, flagZ_aluFlagWord, zeroFlag_iff, aluResult, aluResult]
      bv_omega
    · rw [aluInstr_flags_of_atWriteback hmode, flagZ_aluFlagWord, zeroFlag_iff, aluResult]
      bv_omega
  case add =>
    obtain rfl : t = aluInstr .add s := eq_aluInstr_of_exec h
    refine ⟨fun hmode => ?_, fun hmode => ?_, fun hb => ?_⟩
    · rw [aluInstr_flags_of_everyAluCycle hmode, flagC_aluFlagWord, aluCarry_add_iff, aluInstr_a]
    · rw [aluInstr_flags_of_atWriteback hmode, flagC_aluFlagWord, aluCarry_add_iff]
    · have hresult : aluResult .add s.a s.b = s.a := by simp [aluResult, hb]
      rw [aluInstr_a, hresult]
      refine ⟨rfl, ?_⟩
      rcases hmode : s.cfg.flagsMode with _ | _
      · rw [aluInstr_flags_of_everyAluCycle hmode, flagZ_aluFlagWord, zeroFlag_iff, hresult, hresult]
      · rw [aluInstr_flags_of_atWriteback hmode, flagZ_aluFlagWord, zeroFlag_iff, hresult]
  case xor =>
    obtain rfl : t = aluInstr .xor s := eq_aluInstr_of_exec h
    rw [aluInstr_flags_of_everyAluCycle hmode, flagZ_aluFlagWord, zeroFlag_iff, flagN_aluFlagWord, aluResult_xor_again]
    exact ⟨Iff.rfl, rfl⟩
  case and =>
    obtain rfl : t = aluInstr .and s := eq_aluInstr_of_exec h
    rcases hmode : s.cfg.flagsMode with _ | _
    · rw [aluInstr_flags_of_everyAluCycle hmode, aluFlagWord_and_again]
    · rw [aluInstr_flags_of_atWriteback hmode]

end Sys2Proof.Machine
end

section
/-! PROOF. What no step lets a program observe: MAR and MBR (R31), and FLAGS bits 3 and 4 (R31, R98, R99). -/

namespace Sys2Proof.Machine

variable {i : Instr} {s t : State}

/-- The fetch writes MAR and MBR, and the ALU phase before it reads neither. -/
theorem fetchInstr_setMar_setMbr (s : State) (mar mbr opcode : Byte) :
    fetchInstr opcode ((s.setMar mar).setMbr mbr) = fetchInstr opcode s := by
  rw [fetchInstr, aluPhase_setMbr, aluPhase_setMar]
  rfl

/-- Settles O53: the fetch does not tell the two states apart. -/
theorem marAndMbrAreUnobservable : Obligations.MarAndMbrAreUnobservable := fun s mar mbr hrunning hstep =>
  (step_congr_of_fetch (fun opcode => (fetchInstr_setMar_setMbr s mar mbr opcode).symm) hrunning hstep).symm

/-- Two states that differ in bits 3 and 4 of FLAGS only. -/
structure AgreeButParity (s t : State) : Prop where
  eqSetFlags : t = s.setFlags t.flags
  carry : flagC t.flags = flagC s.flags
  zero : flagZ t.flags = flagZ s.flags
  negative : flagN t.flags = flagN s.flags

theorem AgreeButParity.refl (s : State) : AgreeButParity s s := ⟨rfl, rfl, rfl, rfl⟩

/-- An operation that neither reads nor writes FLAGS keeps the agreement. -/
theorem AgreeButParity.map {f : State → State} (hf : ∀ u flags, f (u.setFlags flags) = (f u).setFlags flags)
    (h : AgreeButParity s t) : AgreeButParity (f s) (f t) := by
  have hflags (u : State) : (f u).flags = u.flags := by
    have hself := congrArg State.flags (hf u u.flags)
    rwa [State.setFlags_self, State.setFlags_flags] at hself
  have hcarry := h.carry
  have hzero := h.zero
  have hnegative := h.negative
  refine ⟨?_, by rwa [hflags, hflags], by rwa [hflags, hflags], by rwa [hflags, hflags]⟩
  rw [hflags, ← hf, ← h.eqSetFlags]

theorem AgreeButParity.exists_setFlags (h : AgreeButParity s t) : ∃ flags, t = s.setFlags flags :=
  ⟨t.flags, h.eqSetFlags⟩

/-- The ALU phase overwrites FLAGS or leaves it alone, and does not read it. -/
theorem AgreeButParity.aluPhase (h : AgreeButParity s t) : AgreeButParity (aluPhase s) (aluPhase t) := by
  obtain ⟨flags, rfl⟩ := h.exists_setFlags
  cases hop : aluOpOf s.ir with
  | none =>
    have hop' : aluOpOf (s.setFlags flags).ir = none := hop
    rwa [aluPhase_of_none hop, aluPhase_of_none hop']
  | some op =>
    have hop' : aluOpOf (s.setFlags flags).ir = some op := hop
    rcases hmode : s.cfg.flagsMode with _ | _
    · rw [aluPhase_of_everyAluCycle hop hmode, aluPhase_of_everyAluCycle hop' hmode]
      exact AgreeButParity.refl _
    · rw [aluPhase_of_atWriteback hop hmode, aluPhase_of_atWriteback hop' hmode]
      exact h.map (f := fun u => (u.setAlu (aluResult op s.a s.b)).setAluFlags (aluFlagWord op s.a s.b)) fun _ _ => rfl

theorem AgreeButParity.fetchInstr (h : AgreeButParity s t) (opcode : Byte) :
    AgreeButParity (fetchInstr opcode s) (fetchInstr opcode t) := by
  obtain ⟨flags, rfl⟩ := h.exists_setFlags
  exact h.aluPhase.map (f := fun u => (((u.setMar s.pc).setMbr opcode).setIr opcode).setPc (s.pc + 1)) fun _ _ => rfl

/-- The flag that a conditional jump tests is none of the two that may differ, so both states take one path. -/
theorem AgreeButParity.conditionalJump {tested : FlagWord → Bool} (target : Byte) (h : AgreeButParity s t)
    (htested : tested t.flags = tested s.flags) :
    AgreeButParity (endInstr (conditionalJump (tested s.flags) target s))
      (endInstr (conditionalJump (tested t.flags) target t)) := by
  rw [htested]
  refine h.map (f := fun u => endInstr (Machine.conditionalJump (tested s.flags) target u)) fun u flags => ?_
  cases tested s.flags <;> rfl

/-- An ALU instruction reads no flag and writes all of FLAGS, so it leaves no difference at all. -/
theorem AgreeButParity.aluInstr (h : AgreeButParity s t) (op : AluOp) :
    AgreeButParity (aluInstr op s) (aluInstr op t) := by
  obtain ⟨flags, rfl⟩ := h.exists_setFlags
  have hsame : Machine.aluInstr op (s.setFlags flags) = Machine.aluInstr op s := by
    rcases hmode : s.cfg.flagsMode with _ | _
    · apply State.eq_of_fields
      all_goals simp [aluInstr_flags_of_everyAluCycle, aluInstr_aluFlags_of_everyAluCycle, hmode]
    · apply State.eq_of_fields
      all_goals simp [aluInstr_flags_of_atWriteback, aluInstr_aluFlags_of_atWriteback, hmode]
  rw [hsame]
  exact AgreeButParity.refl _

/-- Every meaning keeps the agreement: it is an operation on the fetched state that does not touch FLAGS, a conditional
jump, or an ALU instruction. -/
theorem AgreeButParity.answered (h : AgreeButParity s t) (i : Instr) :
    AgreeButParity (answered i s) (answered i t) := by
  have hfetched := h.fetchInstr i.opcode
  cases i with
  | nop => exact hfetched.map (f := endInstr) fun _ _ => rfl
  | hlt => exact hfetched.map (f := fun u => endInstr (u.setHalted true)) fun _ _ => rfl
  | lda addr =>
    exact hfetched.map (f := fun u => endInstr ((loadOperand addr u).setA (absoluteByte (loadOperand addr u) addr)))
      fun _ _ => rfl
  | ldb addr =>
    exact hfetched.map (f := fun u => endInstr ((loadOperand addr u).setB (absoluteByte (loadOperand addr u) addr)))
      fun _ _ => rfl
  | jmp target => exact hfetched.map (f := fun u => endInstr (takeJump target u)) fun _ _ => rfl
  | add => exact h.aluInstr .add
  | sub => exact h.aluInstr .sub
  | xor => exact h.aluInstr .xor
  | and => exact h.aluInstr .and
  | out => exact hfetched.map (f := fun u => endInstr (u.setOutput (u.output ++ [u.a]))) fun _ _ => rfl
  | jz target => exact hfetched.conditionalJump target hfetched.zero
  | jn target => exact hfetched.conditionalJump target hfetched.negative
  | jc target => exact hfetched.conditionalJump target hfetched.carry
  | push => exact hfetched.map (f := fun u => endInstr (pushByte u.a u)) fun _ _ => rfl
  | pop => exact hfetched.map (f := fun u => endInstr ((popByte u).setA (popByte u).mbr)) fun _ _ => rfl
  | jsr target =>
    exact hfetched.map (f := fun u => endInstr (takeJump (operandAfterPush target u) (pushByte u.pc u))) fun _ _ => rfl
  | rts => exact hfetched.map (f := fun u => endInstr ((popByte u).setPc ((popByte u).mbr + 1))) fun _ _ => rfl
  | movab => exact hfetched.map (f := fun u => endInstr (u.setB u.a)) fun _ _ => rfl
  | movba => exact hfetched.map (f := fun u => endInstr (u.setA u.b)) fun _ _ => rfl

theorem AgreeButParity.undefinedOpcode (h : AgreeButParity s t) :
    AgreeButParity (undefinedOpcode s) (undefinedOpcode t) := by
  have hfetched := h.fetchInstr (s.mem.read s.pc)
  obtain ⟨flags, rfl⟩ := h.exists_setFlags
  unfold Machine.undefinedOpcode
  rcases hmode : s.cfg.undefinedMode with _ | _
  · simp only [hmode, State.setFlags_cfg]
    exact hfetched.map (f := fun u => raiseFault (.invalidOpcode (s.mem.read s.pc) (s.pc + 1)) (u.setStepCtr 2))
      fun _ _ => rfl
  · simp only [hmode, State.setFlags_cfg]
    exact hfetched.map (f := endInstr) fun _ _ => rfl

/-- At an instruction boundary a step keeps the agreement. -/
theorem AgreeButParity.step (h : AgreeButParity s t) (hrunning : Running s) (hstep : s.stepCtr = 0) :
    ∃ u v, step s = .next u ∧ step t = .next v ∧ AgreeButParity u v := by
  have hrunning' : Running t := by
    rw [h.eqSetFlags]
    exact ⟨hrunning.noFault, hrunning.notHalted⟩
  have hstep' : t.stepCtr = 0 := by
    rw [h.eqSetFlags]
    exact hstep
  have hbytes : fetchBytes t = fetchBytes s := by rw [h.eqSetFlags]; rfl
  have hbyte : t.mem.read t.pc = s.mem.read s.pc := by rw [h.eqSetFlags]; rfl
  rcases holdsInstr_or_undefined s with ⟨i, hholds⟩ | hundefined
  · have hholds' : HoldsInstr i t := by rwa [HoldsInstr, hbytes]
    exact ⟨_, _, (step_of_holdsInstr hrunning hstep hholds).trans (exec_eq_answered i s),
      (step_of_holdsInstr hrunning' hstep' hholds').trans (exec_eq_answered i t), h.answered i⟩
  · exact ⟨_, _, step_of_undefined hrunning hstep hundefined,
      step_of_undefined hrunning' hstep' (by rwa [hbyte]), h.undefinedOpcode⟩

/-- Settles O54: no meaning reads bit 3 or bit 4, so the two next states agree in all but those. -/
theorem parityIsUnobservable : Obligations.ParityIsUnobservable := by
  intro s flags hrunning hstep hcarry hzero hnegative
  have hagree : AgreeButParity s (s.setFlags flags) := ⟨rfl, hcarry, hzero, hnegative⟩
  obtain ⟨u, v, hu, hv, h⟩ := hagree.step hrunning hstep
  exact ⟨u, v, hu, hv, h.eqSetFlags, h.carry, h.zero, h.negative⟩

end Sys2Proof.Machine
end
